-- ==== Sys2Proof/Word.lean ====
section
/-! DEFINITION. Words and bytes: every datum the block stores or moves is an unsigned 32-bit word (00_scope.md R12);
a byte is a quarter of one (20_memory.md R61). -/

namespace Sys2Proof

/-- The block's datum, an unsigned 32-bit word (R12). -/
abbrev Word := BitVec 32

/-- One byte of a word, as the host sees a space as bytes (R61). -/
abbrev Byte := BitVec 8

end Sys2Proof
end

