-- ==== Sys2Proof/Config.lean ====
section
/-! DEFINITION. The implementation parameters of 00_scope.md R10, the fixed constants of R9, and the free values:
constants without a body, for what the spec leaves open. -/

namespace Sys2Proof

/-- The implementation parameters (00_scope.md R10), with the host addresses BASE_<space> of D7. They are fixed for
the life of the block (R46); State carries them so that a claim quantifies over them (log 1). -/
structure Config where
  /-- HIST_WG_SIZE: lanes in one histogram workgroup. -/
  histWgSize : Nat
  /-- HIST_BLOCK_ROWS: keys per histogram lane. -/
  histBlockRows : Nat
  /-- SCATTER_WG_SIZE: lanes in one scatter workgroup. -/
  scatterWgSize : Nat
  /-- SCATTER_BLOCK_ROWS: elements per scatter lane. -/
  scatterBlockRows : Nat
  /-- SUBGROUP_SIZE: lanes in one SIMD sub-group; no result depends on it (R10, R176). -/
  subgroupSize : Nat
  /-- SPIN_BUDGET: the retry bound of one look-back spin loop (D12). -/
  spinBudget : Nat
  /-- CAP: capacity in elements of each key and payload buffer. -/
  cap : Nat
  /-- QUEUE_DEPTH: command queue entries (D4). -/
  queueDepth : Nat
  /-- BASE_KEYS_A: the host byte address of the space (D7). -/
  baseKeysA : Nat
  /-- BASE_KEYS_B. -/
  baseKeysB : Nat
  /-- BASE_PAY_A. -/
  basePayA : Nat
  /-- BASE_PAY_B. -/
  basePayB : Nat
  /-- BASE_HIST. -/
  baseHist : Nat
  deriving DecidableEq, Repr

/-- T_h, the histogram tile in elements (R10). -/
def Config.tileH (c : Config) : Nat := c.histWgSize * c.histBlockRows

/-- T_s, the scatter tile in elements (R10). -/
def Config.tileS (c : Config) : Nat := c.scatterWgSize * c.scatterBlockRows

/-- P_MAX, the capacity of the partition region in partitions (R10). -/
def Config.pMax (c : Config) : Nat := c.cap / c.tileS

/-- The parameters of programs P1 and P5 of 95_test_vectors.md (T_h = 4, T_s = 4, CAP = 8, QUEUE_DEPTH 7,
SPIN_BUDGET 2), with the five spaces laid one after the other. DESIGN CHOICE (log 1): the spec leaves every one open;
State.reset needs some. -/
def Config.reference : Config where
  histWgSize := 2
  histBlockRows := 2
  scatterWgSize := 4
  scatterBlockRows := 1
  subgroupSize := 4
  spinBudget := 2
  cap := 8
  queueDepth := 7
  baseKeysA := 0
  baseKeysB := 32
  basePayA := 64
  basePayB := 96
  baseHist := 128

/-- The free value behind the schedule: the n-th draw once State.sched is used up (log 4). Any interleaving is
admitted (20_memory.md R69, 93_implementation_defined.md 9), so nothing is known of it. -/
opaque Config.freeDraw : Nat → Nat

/-- The free value behind shared memory and lane-private storage at a workgroup's start (10_state.md R40,
93_implementation_defined.md 14): dispatch counter, array, workgroup, position (log 10). -/
opaque Config.freeWord : Nat → Nat → Nat → Nat → Word

/-- KEY_BITS (R9). -/
def Config.keyBits : Nat := 32
/-- RADIX_BITS (R9). -/
def Config.radixBits : Nat := 8
/-- RADIX, the buckets of one pass (R9). -/
def Config.radix : Nat := 256
/-- PASSES, the digit passes of one sort (R9). -/
def Config.passes : Nat := 4
/-- HIST_ROWS_WORDS, the words of global histogram (R9). -/
def Config.histRowsWords : Nat := 1024
/-- The largest count a partition status word holds, 2^COUNT_BITS - 1 (R9, R10). -/
def Config.countMax : Nat := 0x3FFFFFFF
/-- SENTINEL, the key of a padding element (R9, R105). -/
def Config.sentinel : Word := 0xFFFFFFFF

end Sys2Proof
end

