-- ==== Sys2Proof/Syntax.lean ====
section
/-! DEFINITION. The five host commands, one constructor for each row of spec/opcode_table.json. -/

namespace Sys2Proof

/-- A command of the block (00_scope.md R2, 30_encoding.md R91). No command carries an operand or an immediate
(R94): each takes its operands from the register block when its dispatch starts. -/
inductive Instr where
  /-- ZERO, word 0x00000001 (44_orchestrator.md R221). -/
  | zero
  /-- HISTOGRAM, word 0x00000002 (41_histogram.md R130). -/
  | histogram
  /-- PREFIX, word 0x00000003 (42_prefix.md R150). -/
  | prefixScan
  /-- SCATTER.EVEN, word 0x00000004 (43_scatter.md R170). -/
  | scatterEven
  /-- SCATTER.ODD, word 0x00000005 (43_scatter.md R171). -/
  | scatterOdd
  deriving DecidableEq, Repr

end Sys2Proof
end

