-- ==== Sys2Proof/Machine/State.lean ====
section
/-! DEFINITION. The state of the block as plain data (10_state.md R46: the register block, the command queue, the
executing command with its workgroups, the five buffer spaces), the reasons a step can stop, and reset. -/

namespace Sys2Proof.Machine

/-- Why a step stops with a fault: never. No behaviour of the block is treated as a fault (93_implementation_defined.md,
60_exceptions.md R268), so there is no constructor, nobody raises one, and that is safe. -/
inductive Fault where
  deriving DecidableEq, Repr

/-- Why a step is refused: the block has no move there (60_exceptions.md R268). Each is safe: the machine stops. -/
inductive Refusal where
  /-- Raised by an arm of exec whose instruction has no meaning yet; no arm is one. Safe. -/
  | notModelled (mnemonic : String)
  /-- Raised by the sequencer at the start of an accepted command whose sizes are illegal: failure code 5, CAPACITY
  (R250, R256). Safe. -/
  | capacity
  /-- Raised by an engine access (MemRead, MemWrite, AtomicLoad, AtomicStore, AtomicAdd) of a command at a word index
  outside the space's allocated size: a capacity misconfiguration met in the middle of a command (00_scope.md R14, R256).
  Safe. With legal sizes no run reaches it (20_memory.md R67; log 9). -/
  | indexOutOfSpace
  /-- Raised by the host agent: WRITE of NUM_KEYS or PADDED_SIZE while BUSY (R290 duty 1). Safe. -/
  | sizeWriteWhileBusy
  /-- Raised by the host agent: READ of a register other than STATUS while BUSY (R290 duty 2). Safe. -/
  | registerReadWhileBusy
  /-- Raised by the host agent: MWRITE or MREAD of a buffer space while BUSY (R290 duty 3). Safe. -/
  | bufferAccessWhileBusy
  /-- Raised by the host agent: WRITE of CMD while the queue holds QUEUE_DEPTH words (R290 duty 4). Safe. -/
  | queueFull
  /-- Raised by the host agent: WRITE of EVEN_PASS, ODD_PASS, SORT_FAILED or STATUS (R290 duty 5). Safe. -/
  | readOnlyRegister
  /-- Raised by the host agent: a register access at an offset that is none of the seven (R290 duty 6). Safe. -/
  | reservedOffset
  /-- Raised by the host agent: an access that is not one aligned 32-bit word (R290 duty 7). Safe. -/
  | notOneAlignedWord
  /-- Raised by the host agent: MWRITE or MREAD at an index outside the space (R290 duty 8). Safe. -/
  | hostIndexOutOfSpace
  deriving DecidableEq, Repr

/-- The five buffer spaces (20_memory.md R60, 10_state.md R34, R35). -/
inductive Space where
  | keysA
  | keysB
  | payA
  | payB
  | hist
  deriving DecidableEq, Repr

/-- STATUS.PHASE, the sequencer phase (10_state.md R28). The values 5, 6 and 7 are never written. -/
inductive Phase where
  /-- 0, NONE: no sort prepared. -/
  | unprepared
  /-- 1, ZEROED. -/
  | zeroed
  /-- 2, HISTOGRAMMED. -/
  | histogrammed
  /-- 3, SCANNED: scatter passes 0 to 3 are in progress. -/
  | scanned
  /-- 4, SORTED. -/
  | sorted
  deriving DecidableEq, Repr

/-- A space's contents: (byte offset within the space, byte) pairs, offsets strictly rising, none of them the byte
an unlisted offset reads as (Memory.wf). -/
abbrev Memory := List Host.Cell

/-- The phase of a histogram workgroup (10_state.md R44); COUNT carries its round, the pass it counts (R132). -/
inductive HistPhase where
  | load
  | count (round : Fin 4)
  | done
  deriving DecidableEq, Repr

/-- A histogram workgroup (R40, R41, R44). -/
structure HistGroup where
  phase : HistPhase
  /-- kv: the keys of the tile, position o of the tile being lane o mod HIST_WG_SIZE, row o / HIST_WG_SIZE (R131). -/
  kv : List Word
  /-- shared.hist, the 256-bucket shared accumulator (R40). -/
  acc : List Word
  deriving DecidableEq, Repr

/-- The phase of a prefix workgroup (R44). -/
inductive ScanPhase where
  | load
  | scan
  | done
  deriving DecidableEq, Repr

/-- A prefix workgroup (R40, R44). -/
structure ScanGroup where
  phase : ScanPhase
  /-- shared.scan, the 256-word scan array (R40). -/
  scan : List Word
  deriving DecidableEq, Repr

/-- phase_w of a scatter workgroup (R42). -/
inductive ScatterPhase where
  | load
  | publish
  | lookback
  | write
  | done
  | failed
  deriving DecidableEq, Repr

/-- The state of a digit lane: the four of R43 and R181, and before look-back starts how far PUBLISH has come. -/
inductive LaneState where
  /-- PUBLISH, nothing done yet. -/
  | waiting
  /-- PUBLISH of workgroup 0: the global base is read, the Prefix word not yet stored (R179). -/
  | based
  /-- PUBLISH of a workgroup w > 0: the Aggregate word is stored (R178). -/
  | published
  | walking
  | resolved
  | failed
  | aborted
  deriving DecidableEq, Repr

/-- A digit lane (w, d) (R43), with what the coherent memory of 20_memory.md R71 remembers of it. -/
structure Lane where
  lstate : LaneState
  /-- The partition slot it polls next. -/
  cursor : Nat
  /-- The count accumulated so far. -/
  acc : Word
  /-- Not-ready observations on the current slot. -/
  retries : Nat
  /-- Where in the coherence order of its current slot's word the lane has read: it reads nothing older (R71). -/
  seenSlot : Nat
  /-- Where in the coherence order of SORT_FAILED the lane has read. -/
  seenFailed : Nat
  /-- The values PIDX(w, d) held before the lane's stores of this dispatch, newest first (R72: at most two). -/
  older : List Word
  deriving DecidableEq, Repr

/-- A scatter workgroup (R40 to R42). -/
structure ScatterGroup where
  phase : ScatterPhase
  /-- kv: the tile's keys, position o being lane o mod SCATTER_WG_SIZE, row o / SCATTER_WG_SIZE (R174). -/
  kv : List Word
  /-- pv: the tile's payloads. -/
  pv : List Word
  /-- kr: the tile's 1-based ranks, rank_w (R175). -/
  kr : List Word
  /-- shared.digits. -/
  digits : List Word
  /-- shared.local, the tile's count of each digit (R177). -/
  counts : List Word
  /-- shared.excl, the resolved exclusive base of each digit. -/
  excl : List Word
  /-- shared.scatter_failed (R39, R42). -/
  scatterFailed : Bool
  lanes : List Lane
  deriving DecidableEq, Repr

/-- A HISTOGRAM dispatch: the operands read at its start (30_encoding.md R94) and its workgroups. -/
structure HistRun where
  numKeys : Nat
  size : Nat
  groups : List HistGroup
  deriving DecidableEq, Repr

/-- A scatter dispatch: the operands fixed at its start (R94; the pass fixes source, destination and tags, R223),
its workgroups, and the values SORT_FAILED held before its stores of this dispatch, newest first (R71). -/
structure ScatterRun where
  pass : Nat
  size : Nat
  groups : List ScatterGroup
  failedOlder : List Word
  deriving DecidableEq, Repr

/-- The command currently executing with its dispatch state (10_state.md R32). ZERO runs no workgroups (R221): it has
its stores and register writes before it (`cleared` is false), or only its completion (`cleared` is true; log 5). -/
inductive Executing where
  | zero (size : Nat) (cleared : Bool)
  | histogram (run : HistRun)
  | scan (groups : List ScanGroup)
  | scatter (run : ScatterRun)
  deriving DecidableEq, Repr

/-- What a host access addresses: the register block, or a buffer space (30_encoding.md R106). -/
inductive Target where
  | registers
  | space (sp : Space)
  deriving DecidableEq, Repr

/-- An operation of the host (R106, R107), or the platform's reset event (70_reset_and_hazards.md R280). An access is
`size` bytes at byte offset `offset` of its target, so that the accesses R62 rules out can be written down too. -/
inductive HostOp where
  /-- WRITE, or MWRITE on a space. -/
  | write (target : Target) (offset size : Nat) (value : Word)
  /-- READ, or MREAD on a space. -/
  | read (target : Target) (offset size : Nat)
  /-- WAIT: READ STATUS repeated until bit 0 reads 0. -/
  | wait
  /-- The reset event. -/
  | reset
  deriving DecidableEq, Repr

/-- The agents that take steps (20_memory.md R69, 60_exceptions.md R265). -/
inductive Agent where
  | sequencer
  | host
  /-- Workgroup w of the executing dispatch. -/
  | group (w : Nat)
  /-- Digit lane (w, d) of the executing scatter. -/
  | lane (w d : Nat)
  deriving DecidableEq, Repr

/-- The whole state of the block, with its host and its schedule. -/
structure State where
  /-- The parameters (not state of the block, R46; no step changes them; log 1). -/
  cfg : Config
  /-- NUM_KEYS (R21). -/
  numKeys : Word
  /-- PADDED_SIZE (R22). -/
  paddedSize : Word
  /-- EVEN_PASS (R23). -/
  evenPass : Word
  /-- ODD_PASS (R24). -/
  oddPass : Word
  /-- SORT_FAILED (R25). -/
  sortFailed : Word
  /-- STATUS.PHASE (R28). -/
  phase : Phase
  /-- STATUS.CMD_ERR (R29). -/
  cmdErr : Bool
  /-- The command queue, head first (R33). -/
  queue : List Word
  /-- The executing command (R32). -/
  executing : Option Executing
  /-- KEYS_A (R34). -/
  keysA : Memory
  /-- KEYS_B. -/
  keysB : Memory
  /-- PAY_A. -/
  payA : Memory
  /-- PAY_B. -/
  payB : Memory
  /-- HIST (R35). -/
  hist : Memory
  /-- The model's own: the host operations still to come (log 7). -/
  host : List HostOp
  /-- The model's own: what READ and MREAD have returned, oldest first (log 7). -/
  reads : List Word
  /-- The model's own: the schedule's next draws (log 4). -/
  sched : List Nat
  /-- The model's own: the counter the free values are applied to (log 4, log 10). -/
  fresh : Nat
  deriving DecidableEq, Repr

/-- The block with parameters c right after reset (10_state.md R47). STATUS reads 0, the queue is empty and no
command executes, as the spec says. DESIGN CHOICE (log 2, log 3): the registers and buffers the spec leaves
unspecified hold 0. DESIGN CHOICE (log 7, log 4): no host operation and no draw is listed. -/
def State.resetFor (c : Config) : State where
  cfg := c
  numKeys := 0
  paddedSize := 0
  evenPass := 0
  oddPass := 0
  sortFailed := 0
  phase := .unprepared
  cmdErr := false
  queue := []
  executing := none
  keysA := []
  keysB := []
  payA := []
  payB := []
  hist := []
  host := []
  reads := []
  sched := []
  fresh := 0

/-- The machine right after reset, with the parameters of Config.reference (log 1). -/
def State.reset : State := State.resetFor Config.reference

end Sys2Proof.Machine
end

