-- ==== Sys2Proof/Machine/Operands.lean ====
section
/-! DEFINITION. The operands of the commands: the digit extractor, the index notations of 00_scope.md R16, the tiles,
the derived grid sizes (R11), and the buffer roles (44_orchestrator.md R223). -/

namespace Sys2Proof.Machine

/-- digit(k, p), the 8-bit digit of key k in pass p (40_digit_extractor.md R120). -/
def digit (k : Word) (p : Nat) : Word := (k >>> (8 * p)) &&& 0xFF

/-- HIDX(p, d), the global histogram word of pass p, digit d (R16). -/
def hidx (p d : Nat) : Nat := 256 * p + d

/-- PIDX(w, d), the partition word of workgroup w, digit d (R16). -/
def pidx (w d : Nat) : Nat := 1024 + 256 * w + d

/-- The words of a space (20_memory.md R60, 10_state.md R34, R35). -/
def spaceWords (c : Config) : Space → Nat
  | .keysA => c.cap
  | .keysB => c.cap
  | .payA => c.cap
  | .payB => c.cap
  | .hist => 1024 + 256 * c.pMax

/-- BASE_<space>, the host byte address of a space (D7). -/
def spaceBase (c : Config) : Space → Nat
  | .keysA => c.baseKeysA
  | .keysB => c.baseKeysB
  | .payA => c.basePayA
  | .payB => c.basePayB
  | .hist => c.baseHist

/-- Two spaces share no host byte. -/
def spacesApart (c : Config) (x y : Space) : Bool :=
  spaceBase c x + 4 * spaceWords c x ≤ spaceBase c y || spaceBase c y + 4 * spaceWords c y ≤ spaceBase c x
    || spaceWords c x == 0 || spaceWords c y == 0

/-- The five buffer spaces are disjoint (R66, 60_exceptions.md R256). -/
def spacesDisjoint (c : Config) : Bool :=
  spacesApart c .keysA .keysB && spacesApart c .keysA .payA && spacesApart c .keysA .payB
    && spacesApart c .keysA .hist && spacesApart c .keysB .payA && spacesApart c .keysB .payB
    && spacesApart c .keysB .hist && spacesApart c .payA .payB && spacesApart c .payA .hist
    && spacesApart c .payB .hist

/-- sizes_legal() (R256). -/
def sizesLegal (s : State) : Bool :=
  s.numKeys ≤ s.paddedSize && s.paddedSize.toNat ≤ s.cfg.cap
    && s.paddedSize.toNat % s.cfg.tileS == 0 && spacesDisjoint s.cfg

/-- G_h = ceil(PADDED_SIZE / T_h), the histogram workgroups (R11, D18). -/
def histGrid (c : Config) (size : Nat) : Nat := (size + c.tileH - 1) / c.tileH

/-- P = PADDED_SIZE / T_s, the scatter workgroups or partitions (R11, D18). -/
def scatterGrid (c : Config) (size : Nat) : Nat := size / c.tileS

/-- The HIST words a sort of this size uses, 1024 + 256·P: those ZERO zeroes (10_state.md R35). -/
def sortHistWords (c : Config) (size : Nat) : Nat := 1024 + 256 * scatterGrid c size

/-- The lane that holds tile position o, in a stage whose workgroups have wg lanes (41_histogram.md R131,
43_scatter.md R174: lane l, row r ↔ index w·T + r·WG_SIZE + l). No result depends on it. -/
def laneOfPosition (wg o : Nat) : Nat := o % wg

/-- The row of tile position o in its lane (R131, R174). -/
def rowOfPosition (wg o : Nat) : Nat := o / wg

/-- The keys of the source of a scatter pass: A for even passes, B for odd ones (R36, R223). -/
def sourceKeys (p : Nat) : Space := if p % 2 = 0 then .keysA else .keysB

/-- The payloads of the source (R223). -/
def sourcePay (p : Nat) : Space := if p % 2 = 0 then .payA else .payB

/-- The keys of the destination (R223). -/
def destKeys (p : Nat) : Space := if p % 2 = 0 then .keysB else .keysA

/-- The payloads of the destination (R223). -/
def destPay (p : Nat) : Space := if p % 2 = 0 then .payB else .payA

/-- The pass index of a SCATTER.EVEN, 2·EVEN_PASS (R226). -/
def evenPassIndex (s : State) : Nat := 2 * s.evenPass.toNat

/-- The pass index of a SCATTER.ODD, 2·ODD_PASS + 1 (R226). -/
def oddPassIndex (s : State) : Nat := 2 * s.oddPass.toNat + 1

/-- Position i of a shared or private array. Every array has its full length from its workgroup's start on, so the
second case is not reached. -/
def arrayAt (xs : List Word) (i : Nat) : Word := xs.getD i 0

/-- How many of the keys have digit d in pass p, as a word. -/
def digitCount (keys : List Word) (p d : Nat) : Word :=
  BitVec.ofNat 32 (keys.countP (fun k => (digit k p).toNat == d))

end Sys2Proof.Machine
end

