-- ==== Sys2Proof/Machine/Flags.lean ====
section
/-! DEFINITION. The flags and codes: STATUS and its fields, the partition status word (30_encoding.md R96 to R101),
the failure events and their codes (60_exceptions.md R250). The block has no condition codes (10_state.md R39). -/

namespace Sys2Proof.Machine

/-- STATUS.BUSY: the queue is non-empty or a command is executing (10_state.md R27). -/
def busy (s : State) : Bool := !s.queue.isEmpty || s.executing.isSome

/-- The three bits of STATUS.PHASE (R28). -/
def phaseBits : Phase → BitVec 3
  | .unprepared => 0
  | .zeroed => 1
  | .histogrammed => 2
  | .scanned => 3
  | .sorted => 4

/-- STATUS as the host reads it: BUSY in bit 0, PHASE in bits [3:1], CMD_ERR in bit 4, bits [31:5] 0 (R27 to R30). -/
def statusWord (s : State) : Word :=
  (0 : BitVec 27) ++ BitVec.ofBool s.cmdErr ++ phaseBits s.phase ++ BitVec.ofBool (busy s)

/-- A decoded partition status (30_encoding.md R98). -/
inductive Status where
  | invalid
  | aggregate
  /-- The source's "Prefix": the inclusive running total. -/
  | inclusive
  /-- The tag of neither status of the pass (R101). -/
  | foreign
  deriving DecidableEq, Repr

/-- INV_p: 0 in even passes, 2 in odd ones (R98). -/
def invTag (p : Nat) : BitVec 2 := if p % 2 = 0 then 0 else 2

/-- AGG_p: 1 in even passes, 3 in odd ones (R98). -/
def aggTag (p : Nat) : BitVec 2 := if p % 2 = 0 then 1 else 3

/-- PRE_p: 2 in even passes, 0 in odd ones (R98). -/
def preTag (p : Nat) : BitVec 2 := if p % 2 = 0 then 2 else 0

/-- psw(tag, count) = (tag << 30) | count (R97). DESIGN CHOICE (log 28): R97 states it for counts up to 0x3FFFFFFF; a
larger count, possible only from a HIST row that the host rewrote or over stale data, goes through the same formula, so
its top bits join the tag. -/
def psw (tag : BitVec 2) (count : Word) : Word := (tag.setWidth 32 <<< 30) ||| count

/-- TAG, bits [31:30] (R96). -/
def tagOf (v : Word) : BitVec 2 := v.extractLsb' 30 2

/-- COUNT, bits [29:0], as a word (R96). -/
def countOf (v : Word) : Word := (v.extractLsb' 0 30).setWidth 32

/-- status(v, p), used by every poll (R100). -/
def status (v : Word) (p : Nat) : Status × Word :=
  if tagOf v = invTag p then (.invalid, countOf v)
  else if tagOf v = aggTag p then (.aggregate, countOf v)
  else if tagOf v = preTag p then (.inclusive, countOf v)
  else (.foreign, countOf v)

/-- The failure events (60_exceptions.md R250). -/
inductive FailureEvent where
  | contention
  | lookbackBudget
  | lookbackAbort
  | cmdIllegal
  | cmdSequence
  | capacity
  deriving DecidableEq, Repr

/-- The codes of R250. The block stores none of them, only the flags each records. -/
def FailureEvent.code : FailureEvent → Nat
  | .contention => 0
  | .lookbackBudget => 1
  | .lookbackAbort => 2
  | .cmdIllegal => 3
  | .cmdSequence => 4
  | .capacity => 5

/-- What a poll that found SORT_FAILED clear does with the word it read (43_scatter.md R185, R186). -/
inductive PollOutcome where
  /-- A Prefix word with this count: add it, publish, stop. -/
  | resolve (count : Word)
  /-- An Aggregate word with this count at a slot above 0: add it, move to the slot before. -/
  | advance (count : Word)
  /-- Not ready, within the budget (failure code 0). -/
  | contention
  /-- Not ready, the budget exceeded (failure code 1). -/
  | budget
  deriving DecidableEq, Repr

/-- A not-ready poll: the lane fails when its retries would exceed SPIN_BUDGET (R185, D12). -/
def notReady (spinBudget retries : Nat) : PollOutcome :=
  if spinBudget < retries + 1 then .budget else .contention

/-- The outcome of reading word v in pass p at slot `cursor` with `retries` not-ready polls behind it (R185). A foreign
tag, and an Aggregate at slot 0, are not ready (30_encoding.md R101). -/
def pollOutcome (p spinBudget cursor retries : Nat) (v : Word) : PollOutcome :=
  match status v p with
  | (.inclusive, c) => .resolve c
  | (.aggregate, c) => if 0 < cursor then .advance c else notReady spinBudget retries
  | (.invalid, _) => notReady spinBudget retries
  | (.foreign, _) => notReady spinBudget retries

end Sys2Proof.Machine
end

