-- ==== Sys2Proof/Decode.lean ====
section
/-! DEFINITION. Decoding a command word (30_encoding.md R90 to R93) and, after it, encoding one. -/

namespace Sys2Proof

/-- Why a word is no command (30_encoding.md R93). -/
inductive Reject where
  /-- The RSV field, bits [31:8], is not 0. -/
  | reservedNotZero
  /-- OPC, bits [7:0], is 0x00 or in 0x06 .. 0xFF. -/
  | noSuchOpcode
  deriving DecidableEq, Repr

/-- RSV, bits [31:8] of a command word (R90). -/
def rsvField (c : Word) : BitVec 24 := c.extractLsb' 8 24

/-- OPC, bits [7:0] of a command word (R90). -/
def opcField (c : Word) : BitVec 8 := c.extractLsb' 0 8

/-- Decoding, total on every 32-bit word (R92): the five words of R91, every other word rejected by name. -/
def decode (c : Word) : Except Reject Instr :=
  if rsvField c ≠ 0 then .error .reservedNotZero
  else if opcField c = 0x01 then .ok .zero
  else if opcField c = 0x02 then .ok .histogram
  else if opcField c = 0x03 then .ok .prefixScan
  else if opcField c = 0x04 then .ok .scatterEven
  else if opcField c = 0x05 then .ok .scatterOdd
  else .error .noSuchOpcode

/-- A word from its four bytes, the lowest address first (20_memory.md R61, little-endian). -/
def wordOfBytes (b0 b1 b2 b3 : Byte) : Word := b3 ++ b2 ++ b1 ++ b0

/-- The byte of a word at byte offset k, k < 4 (R61). -/
def byteOfWord (v : Word) (k : Nat) : Byte := v.extractLsb' (8 * k) 8

/-- The four bytes of a word in the order of their addresses (R61). -/
def bytesOfWord (v : Word) : List Byte :=
  [byteOfWord v 0, byteOfWord v 1, byteOfWord v 2, byteOfWord v 3]

/-- Decoding from bytes: the command the first four bytes hold, with the bytes after it; fewer than four bytes hold
no command word. Every command is exactly one word (R90). -/
def decodeBytes : List Byte → Option (Except Reject Instr × List Byte)
  | b0 :: b1 :: b2 :: b3 :: rest => some (decode (wordOfBytes b0 b1 b2 b3), rest)
  | _ => none

/-- OPC of a command (R91). -/
def opcodeOf : Instr → BitVec 8
  | .zero => 0x01
  | .histogram => 0x02
  | .prefixScan => 0x03
  | .scatterEven => 0x04
  | .scatterOdd => 0x05

/-- The word of a command: RSV 0 above OPC (R90, R91). -/
def encode (i : Instr) : Word := (0 : BitVec 24) ++ opcodeOf i

/-- The command the decoder reads from the instruction whose bits are w, of which the table gives nbits and whose
other bits are 0: the word as its four bytes, given to decodeBytes. -/
def decodeTableWord (nbits w : Nat) : Option Instr :=
  match decodeBytes (bytesOfWord (BitVec.ofNat 32 (w % 2 ^ nbits))) with
  | some (.ok i, _) => some i
  | _ => none

end Sys2Proof
end

