-- ==== Sys2Proof/Machine/Memory.lean ====
section
/-! DEFINITION. One space's memory: bytes by offset, words in little-endian order (20_memory.md R61). -/

namespace Sys2Proof.Machine

/-- What an offset that is not listed reads as. DESIGN CHOICE (log 3): the spec says the contents after reset are
unspecified and reading them is no fault (10_state.md R47, R48). -/
def unlistedByte : Byte := 0

/-- Offsets strictly rising from n on, no entry equal to what an unlisted offset reads as. -/
def Memory.risesFrom : Nat → Memory → Bool
  | _, [] => true
  | n, (a, x) :: rest => n ≤ a && x != unlistedByte && Memory.risesFrom (a + 1) rest

/-- The canonical form: offsets strictly rising, no entry equal to what an unlisted offset reads as. -/
def Memory.wf (m : Memory) : Bool := Memory.risesFrom 0 m

/-- The byte at an offset. -/
def Memory.readByte : Memory → Nat → Byte
  | [], _ => unlistedByte
  | (b, x) :: rest, a => if a < b then unlistedByte else if a = b then x else Memory.readByte rest a

/-- Writing the byte at an offset, keeping the canonical form. -/
def Memory.writeByte : Memory → Nat → Byte → Memory
  | [], a, v => if v = unlistedByte then [] else [(a, v)]
  | (b, x) :: rest, a, v =>
    if a < b then (if v = unlistedByte then (b, x) :: rest else (a, v) :: (b, x) :: rest)
    else if a = b then (if v = unlistedByte then rest else (a, v) :: rest)
    else (b, x) :: Memory.writeByte rest a v

/-- The entries from word index i on. -/
def Memory.fromWord (m : Memory) (i : Nat) : Memory := m.dropWhile (fun c => c.1 < 4 * i)

/-- The word at word index i: bytes 4i .. 4i+3, little-endian (R61). -/
def Memory.readWord (m : Memory) (i : Nat) : Word :=
  let t := Memory.fromWord m i
  wordOfBytes (Memory.readByte t (4 * i)) (Memory.readByte t (4 * i + 1)) (Memory.readByte t (4 * i + 2))
    (Memory.readByte t (4 * i + 3))

/-- Writing the bytes of a word from offset a on, the lowest byte first (R61). -/
def Memory.writeBytes (m : Memory) (a : Nat) (v : Word) : Memory :=
  Memory.writeByte (Memory.writeByte (Memory.writeByte (Memory.writeByte m a (byteOfWord v 0))
    (a + 1) (byteOfWord v 1)) (a + 2) (byteOfWord v 2)) (a + 3) (byteOfWord v 3)

/-- Writing the word at word index i: the entries below it stay, its four bytes are written into the rest. -/
def Memory.writeWord (m : Memory) (i : Nat) (v : Word) : Memory :=
  m.takeWhile (fun c => c.1 < 4 * i) ++ Memory.writeBytes (Memory.fromWord m i) (4 * i) v

/-- The word stores of a list of (index, word) pairs, in the list's order. -/
def Memory.writeWords (m : Memory) : List (Nat × Word) → Memory
  | [] => m
  | (i, v) :: rest => Memory.writeWords (Memory.writeWord m i v) rest

/-- Every listed offset lies in the first n words. -/
def Memory.within (m : Memory) (n : Nat) : Bool := m.all (fun c => c.1 < 4 * n)

end Sys2Proof.Machine
end

