-- ==== Sys2Proof/Machine/Ops.lean ====
section
/-! DEFINITION. The named operations over the state: the access primitives of 00_scope.md R14, the schedule's draws,
coherent loads (20_memory.md R71), and the two flag-setting events that stand where another machine would take an
exception: the block has no trap entry and no return (60_exceptions.md R258, R259), so a discarded command word sets
CMD_ERR (R255) and a soft failure sets SORT_FAILED (R252), each as a normal step. -/

namespace Sys2Proof.Machine

/-- What a step answers. -/
abbrev Result := Host.Outcome State Fault Refusal

/-! ## Spaces -/

/-- The contents of a space. -/
def memOf (s : State) : Space → Memory
  | .keysA => s.keysA
  | .keysB => s.keysB
  | .payA => s.payA
  | .payB => s.payB
  | .hist => s.hist

/-- The state with other contents in a space. -/
def setMem (s : State) (sp : Space) (m : Memory) : State :=
  match sp with
  | .keysA => { s with keysA := m }
  | .keysB => { s with keysB := m }
  | .payA => { s with payA := m }
  | .payB => { s with payB := m }
  | .hist => { s with hist := m }

/-- MemRead(S, i), and AtomicLoad(S, i) where no other agent of the dispatch writes the word (R14). -/
def loadWord (s : State) (sp : Space) (i : Nat) : Word := Memory.readWord (memOf s sp) i

/-- MemWrite(S, i, v) and AtomicStore(S, i, v) (R14). -/
def storeWord (s : State) (sp : Space) (i : Nat) (v : Word) : State :=
  setMem s sp (Memory.writeWord (memOf s sp) i v)

/-- A run of stores to one space, in the list's order. -/
def storeWords (s : State) (sp : Space) (ws : List (Nat × Word)) : State :=
  setMem s sp (Memory.writeWords (memOf s sp) ws)

/-- AtomicAdd(HIST, i, v): the sum is modulo 2^32 (20_memory.md R64). An add of 0 changes no word and is left out
(41_histogram.md R132, D36). -/
def atomicAdd (m : Memory) (i : Nat) (v : Word) : Memory :=
  if v = 0 then m else Memory.writeWord m i (Memory.readWord m i + v)

/-- The guard of an engine access: every word index lies inside the space, or it is a capacity misconfiguration and
refused (00_scope.md R14, 60_exceptions.md R256; log 9). -/
def guardSpace (s : State) (sp : Space) (is : List Nat) (k : Result) : Result :=
  if is.all (fun i => i < spaceWords s.cfg sp) then k else .refused .indexOutOfSpace

/-! ## Draws -/

/-- The schedule's next draw: the head of the list in State, or, when none is left, a free value (log 4). -/
def draw (s : State) : Nat × State :=
  match s.sched with
  | n :: rest => (n, { s with sched := rest })
  | [] => (Config.freeDraw s.fresh, { s with fresh := s.fresh + 1 })

/-- The k-th of the things a :: rest, counted round and round. -/
def choose {α : Type} (a : α) (rest : List α) : Nat → α
  | 0 => a
  | k + 1 => (a :: rest).getD ((k + 1) % (rest.length + 1)) a

/-- A choice among the listed possibilities, by a draw; where there is only one, nothing is drawn (log 4). -/
def pick {α : Type} : List α → State → Option (α × State)
  | [], _ => none
  | [a], s => some (a, s)
  | a :: b :: rest, s => some (choose a (b :: rest) (draw s).1, (draw s).2)

/-- An order of the listed things, by draws (00_scope.md R15: "for all" has no defined order). -/
def shuffle {α : Type} : Nat → List α → State → List α × State
  | 0, xs, s => (xs, s)
  | n + 1, xs, s =>
    match pick xs.zipIdx s with
    | none => ([], s)
    | some ((x, i), s') =>
      let rest := shuffle n (xs.eraseIdx i) s'
      (x :: rest.1, rest.2)

/-- The values of a word within a dispatch, newest first, each with its place in the coherence order (0 is the value
at dispatch start). -/
def versions : List Word → List (Nat × Word)
  | [] => []
  | v :: older => (older.length, v) :: versions older

/-- An AtomicLoad of a word other agents of the dispatch write (20_memory.md R71): some value of the word's coherence
order that is not older than what the agent has already read of it, by a draw (log 6). `cur` is what the word holds
now, `older` what it held before, newest first, `seen` the place up to which the agent has read. Answers the place
read, the value and the state. -/
def loadCoherent (cur : Word) (older : List Word) (seen : Nat) (s : State) : Nat × Word × State :=
  match pick ((versions (cur :: older)).filter (fun x => seen ≤ x.1)) s with
  | some ((n, v), s') => (n, v, s')
  | none => (older.length, cur, s)

/-- Free contents for n words of a shared or private array of workgroup w (10_state.md R40, R41; log 10). -/
def freeArray (s : State) (arr w n : Nat) : List Word := (List.range n).map (Config.freeWord s.fresh arr w)

/-! ## The events that record a flag -/

/-- A command word is discarded, being illegal or out of sequence: CMD_ERR is set and nothing else changes
(60_exceptions.md R255; 30_encoding.md R93; 44_orchestrator.md R232). -/
def discard (s : State) : State := { s with cmdErr := true }

/-- AtomicStore(SORT_FAILED, 1) of a soft failure (43_scatter.md R186). -/
def setSortFailed (s : State) : State := { s with sortFailed := 1 }

/-! ## The command queue -/

/-- The head of the queue and the state without it (10_state.md R33), decoded (30_encoding.md R92). -/
def fetch (s : State) : Option (Except Reject Instr × State) :=
  match s.queue with
  | [] => none
  | c :: rest => some (decode c, { s with queue := rest })

/-- The queue with c in place of its head. -/
def putHead (s : State) (c : Word) : State := { s with queue := c :: s.queue.tail }

end Sys2Proof.Machine
end

