-- ==== Sys2Proof/Machine/Histogram.lean ====
section
/-! DEFINITION. The histogram workgroups (41_histogram.md R131, R132), one move of one workgroup at a time
(20_memory.md R80, log 5). -/

namespace Sys2Proof.Machine

/-- tile_h(w) clipped to PADDED_SIZE: the indices of the tile, in position order (00_scope.md R16). -/
def histTile (c : Config) (size w : Nat) : List Nat :=
  (List.range (min c.tileH (size - w * c.tileH))).map (w * c.tileH + ·)

/-- A histogram workgroup at its start (R44): LOAD, with unspecified storage (R40, R41; log 10). -/
def histGroupStart (s : State) (w : Nat) : HistGroup where
  phase := .load
  kv := freeArray s 0 w s.cfg.tileH
  acc := freeArray s 1 w 256

/-- kv after LOAD: KEYS_A[i] for i < NUM_KEYS, SENTINEL for a padding index; a position past PADDED_SIZE keeps what
it held (R131, R136). -/
def histLoadKeys (s : State) (run : HistRun) (w : Nat) (kv : List Word) : List Word :=
  (List.range s.cfg.tileH).map fun o =>
    let i := w * s.cfg.tileH + o
    if i < run.size then (if i < run.numKeys then loadWord s .keysA i else Config.sentinel) else arrayAt kv o

/-- The SENTINEL write-backs of the tile's padding indices (R131, R133). -/
def histPadding (c : Config) (run : HistRun) (w : Nat) : List (Nat × Word) :=
  ((histTile c run.size w).filter (fun i => run.numKeys ≤ i)).map (fun i => (i, Config.sentinel))

/-- The keys a workgroup counts: the positions of its tile below PADDED_SIZE. -/
def histTileKeys (c : Config) (size w : Nat) (kv : List Word) : List Word :=
  (List.range (histTile c size w).length).map (arrayAt kv)

/-- shared.hist after the increments of one round: the number of the tile's keys with digit d in pass p (R132). -/
def histCounts (keys : List Word) (p : Nat) : List Word := (List.range 256).map (digitCount keys p)

/-- The 256 AtomicAdds of one round into row p of HIST (R132). -/
def addRow (m : Memory) (p : Nat) (counts : List Word) : Memory :=
  (List.range 256).foldl (fun m d => atomicAdd m (hidx p d) (arrayAt counts d)) m

/-- The executing dispatch with workgroup w replaced. -/
def setHistGroup (s : State) (run : HistRun) (w : Nat) (g : HistGroup) : State :=
  { s with executing := some (.histogram { run with groups := run.groups.set w g }) }

/-- One move of histogram workgroup w: LOAD with the padding write-backs (R131), then the four count rounds, each with
its AtomicAdds (R132). DONE is terminal. -/
def histGroupMove (run : HistRun) (w : Nat) (g : HistGroup) (s : State) : Result :=
  match g.phase with
  | .load =>
    guardSpace s .keysA (histTile s.cfg run.size w) <|
      .next (setHistGroup (storeWords s .keysA (histPadding s.cfg run w)) run w
        { g with phase := .count 0, kv := histLoadKeys s run w g.kv })
  | .count r =>
    let counts := histCounts (histTileKeys s.cfg run.size w g.kv) r.val
    guardSpace s .hist ((List.range 256).map (hidx r.val)) <|
      .next (setHistGroup (setMem s .hist (addRow s.hist r.val counts)) run w
        { g with phase := if r = 3 then .done else .count (r + 1), acc := counts })
  | .done => .next s

/-- HISTOGRAM's dispatch: NUM_KEYS and PADDED_SIZE read, G_h workgroups started (R130; 30_encoding.md R94). -/
def startHistogram (s : State) : State :=
  { s with
    fresh := s.fresh + 1
    executing := some (.histogram
      { numKeys := s.numKeys.toNat, size := s.paddedSize.toNat,
        groups := (List.range (histGrid s.cfg s.paddedSize.toNat)).map (histGroupStart s) }) }

/-- The moves a histogram workgroup has left. -/
def histGroupWork (g : HistGroup) : Nat :=
  match g.phase with
  | .load => 5
  | .count r => 4 - r.val
  | .done => 0

end Sys2Proof.Machine
end

