-- ==== Sys2Proof/Machine/Host.lean ====
section
/-! DEFINITION. The host agent: the register block (10_state.md R20 to R30), the bus operations and their duties
(30_encoding.md R106, 70_reset_and_hazards.md R290), the reset event (R280, R281), and the listings of R107, R108. -/

namespace Sys2Proof.Machine

/-- The registers of the block (R20). -/
inductive Reg where
  | numKeys
  | paddedSize
  | evenPass
  | oddPass
  | sortFailed
  | cmd
  | status
  deriving DecidableEq, Repr

/-- The byte offset of a register (R20, R107). -/
def Reg.offset : Reg → Nat
  | .numKeys => 0x00
  | .paddedSize => 0x04
  | .evenPass => 0x08
  | .oddPass => 0x0C
  | .sortFailed => 0x10
  | .cmd => 0x14
  | .status => 0x18

/-- The register at a byte offset; the other offsets are reserved (R20, R30). -/
def regAt (offset : Nat) : Option Reg :=
  if offset = 0x00 then some .numKeys
  else if offset = 0x04 then some .paddedSize
  else if offset = 0x08 then some .evenPass
  else if offset = 0x0C then some .oddPass
  else if offset = 0x10 then some .sortFailed
  else if offset = 0x14 then some .cmd
  else if offset = 0x18 then some .status
  else none

/-- What a READ of a register returns; CMD is write-only and reads 0 (R26). -/
def readReg (s : State) : Reg → Word
  | .numKeys => s.numKeys
  | .paddedSize => s.paddedSize
  | .evenPass => s.evenPass
  | .oddPass => s.oddPass
  | .sortFailed => s.sortFailed
  | .cmd => 0
  | .status => statusWord s

/-- A WRITE of a register. NUM_KEYS and PADDED_SIZE only while idle, and they set PHASE to 0 (R21, R22, R28); CMD appends to
the queue while it has room (R26, R33); the others are read-only (R30). -/
def writeReg (s : State) (r : Reg) (v : Word) : Result :=
  match r with
  | .numKeys => if busy s then .refused .sizeWriteWhileBusy else .next { s with numKeys := v, phase := .unprepared }
  | .paddedSize =>
    if busy s then .refused .sizeWriteWhileBusy else .next { s with paddedSize := v, phase := .unprepared }
  | .cmd => if s.cfg.queueDepth ≤ s.queue.length then .refused .queueFull else .next { s with queue := s.queue ++ [v] }
  | .evenPass => .refused .readOnlyRegister
  | .oddPass => .refused .readOnlyRegister
  | .sortFailed => .refused .readOnlyRegister
  | .status => .refused .readOnlyRegister

/-- The value goes to the host. -/
def answer (s : State) (v : Word) : State := { s with reads := s.reads ++ [v] }

/-- A host access is one aligned 32-bit word (20_memory.md R62). -/
def oneAlignedWord (offset size : Nat) : Bool := size == 4 && offset % 4 == 0

/-- WRITE and MWRITE. Where an access fails several duties, the first refusal met is the one named (log 19). -/
def hostWrite (s : State) (t : Target) (offset size : Nat) (v : Word) : Result :=
  if !oneAlignedWord offset size then .refused .notOneAlignedWord
  else match t with
    | .registers =>
      match regAt offset with
      | none => .refused .reservedOffset
      | some r => writeReg s r v
    | .space sp =>
      if spaceWords s.cfg sp ≤ offset / 4 then .refused .hostIndexOutOfSpace
      else if busy s then .refused .bufferAccessWhileBusy
      else .next (storeWord s sp (offset / 4) v)

/-- READ and MREAD. While BUSY only STATUS may be read (R106, R290). -/
def hostRead (s : State) (t : Target) (offset size : Nat) : Result :=
  if !oneAlignedWord offset size then .refused .notOneAlignedWord
  else match t with
    | .registers =>
      match regAt offset with
      | none => .refused .reservedOffset
      | some r => if busy s && r != .status then .refused .registerReadWhileBusy else .next (answer s (readReg s r))
    | .space sp =>
      if spaceWords s.cfg sp ≤ offset / 4 then .refused .hostIndexOutOfSpace
      else if busy s then .refused .bufferAccessWhileBusy
      else .next (answer s (loadWord s sp (offset / 4)))

/-- The reset event (R280, R281): every field of the block takes its value after reset, at any time. What the model adds
(the parameters, the host's list and answers, the schedule, the free-value counter) is kept (log 16). -/
def resetEvent (s : State) : State :=
  { State.resetFor s.cfg with host := s.host, reads := s.reads, sched := s.sched, fresh := s.fresh }

/-- WAIT ends, with the STATUS word that shows BUSY = 0 (R107). -/
def endWait (s : State) : State := answer s (statusWord s)

/-- What a host operation does. -/
def hostOp (s : State) : HostOp → Result
  | .write t offset size v => hostWrite s t offset size v
  | .read t offset size => hostRead s t offset size
  | .wait => .next (endWait s)
  | .reset => .next (resetEvent s)

/-- The host can move: it has an operation left, and a WAIT only goes on when BUSY reads 0 (R107; log 20). -/
def hostReady (s : State) : Bool :=
  match s.host with
  | [] => false
  | .wait :: _ => !busy s
  | _ :: _ => true

/-- The host's next operation. -/
def hostMove (s : State) : Result :=
  match s.host with
  | [] => .next s
  | op :: rest => hostOp { s with host := rest } op

/-! ## Host listings (R106 to R108) -/

/-- WRITE <register>, <value>. -/
def opWrite (r : Reg) (v : Word) : HostOp := .write .registers r.offset 4 v

/-- READ <register>. -/
def opRead (r : Reg) : HostOp := .read .registers r.offset 4

/-- MWRITE <space>[<index>], <value>. -/
def opMWrite (sp : Space) (i : Nat) (v : Word) : HostOp := .write (.space sp) (4 * i) 4 v

/-- MREAD <space>[<index>]. -/
def opMRead (sp : Space) (i : Nat) : HostOp := .read (.space sp) (4 * i) 4

/-- A command mnemonic assembles to WRITE CMD, <its word> (R107). -/
def opCommand (i : Instr) : HostOp := opWrite .cmd (encode i)

/-- SETUP n, s (R108). -/
def opsSetup (n size : Word) : List HostOp := [opWrite .numKeys n, opWrite .paddedSize size]

/-- SCATTER k (R108). -/
def opScatter (k : Nat) : HostOp := opCommand (if k % 2 = 0 then .scatterEven else .scatterOdd)

/-- The commands of SORT, in order (R108). -/
def sortCommands : List Instr :=
  [.zero, .histogram, .prefixScan, .scatterEven, .scatterOdd, .scatterEven, .scatterOdd]

/-- Commands written to CMD with a WAIT wherever `room` more words would overflow a queue of `depth` words (R108). -/
def opsCommands (depth room : Nat) : List Instr → List HostOp
  | [] => [.wait]
  | i :: rest =>
    match room with
    | 0 => .wait :: opCommand i :: opsCommands depth (depth - 1) rest
    | r + 1 => opCommand i :: opsCommands depth r rest

/-- SORT, for a queue of `depth` words (R108). -/
def opsSort (depth : Nat) : List HostOp := opsCommands depth depth sortCommands

end Sys2Proof.Machine
end

