-- ==== Sys2Proof/Machine/PrefixScan.lean ====
section
/-! DEFINITION. The prefix workgroups and the Blelloch scan (42_prefix.md R151 to R153). -/

namespace Sys2Proof.Machine

/-- One level of the up-sweep: s[i] <- s[i] + s[i - 2^k] where 2^(k+1) divides i + 1 (R152). Every read of a level comes
before the barrier that ends it, so the level is one parallel assignment. -/
def upSweepLevel (k : Nat) (s : List Word) : List Word :=
  (List.range s.length).map fun i =>
    if (i + 1) % 2 ^ (k + 1) = 0 then arrayAt s i + arrayAt s (i - 2 ^ k) else arrayAt s i

/-- One level of the down-sweep: where 2^(k+1) divides i + 1, s[i - 2^k] takes s[i] and s[i] takes the sum of both
(R152). -/
def downSweepLevel (k : Nat) (s : List Word) : List Word :=
  (List.range s.length).map fun i =>
    if (i + 1) % 2 ^ (k + 1) = 0 then arrayAt s (i - 2 ^ k) + arrayAt s i
    else if (i + 1 + 2 ^ k) % 2 ^ (k + 1) = 0 then arrayAt s (i + 2 ^ k)
    else arrayAt s i

/-- The up-sweep levels 0 .. n-1 in rising order (R152). -/
def upSweep (n : Nat) (s : List Word) : List Word := (List.range n).foldl (fun s k => upSweepLevel k s) s

/-- The down-sweep levels n-1 .. 0 in falling order (R152). -/
def downSweep (n : Nat) (s : List Word) : List Word :=
  (List.range n).foldr (fun k s => downSweepLevel k s) s

/-- The Blelloch exclusive scan of an array of 2^n words: up-sweep, root cleared, down-sweep (R152). The schedule is
the textbook's, which the spec marks as general knowledge; only the result is normative (R153; log 17). -/
def blellochScan (n : Nat) (s : List Word) : List Word := downSweep n ((upSweep n s).set (2 ^ n - 1) 0)

/-- The sum of a list of words modulo 2^32 (R13). -/
def sumWords (xs : List Word) : Word := xs.foldl (· + ·) 0

/-- The normative result: position d holds the sum of the positions before it (R153). -/
def exclusiveSums (s : List Word) : List Word := (List.range s.length).map fun d => sumWords (s.take d)

/-- The HIST indices of row p (R151). -/
def rowIndices (p : Nat) : List Nat := (List.range 256).map (hidx p)

/-- The 256 AtomicStores of row p (R151). -/
def rowStores (p : Nat) (xs : List Word) : List (Nat × Word) :=
  (List.range 256).map fun d => (hidx p d, arrayAt xs d)

/-- A prefix workgroup at its start: LOAD, with unspecified shared memory (R40, R44; log 10). -/
def scanGroupStart (s : State) (p : Nat) : ScanGroup where
  phase := .load
  scan := freeArray s 2 p 256

/-- The executing dispatch with workgroup p replaced. -/
def setScanGroup (s : State) (groups : List ScanGroup) (p : Nat) (g : ScanGroup) : State :=
  { s with executing := some (.scan (groups.set p g)) }

/-- One move of prefix workgroup p: the AtomicLoads of row p, then the scan with the AtomicStores (R151). No other
workgroup touches the row, so the fusion is one R80 allows (log 5). DONE is terminal. -/
def scanGroupMove (groups : List ScanGroup) (p : Nat) (g : ScanGroup) (s : State) : Result :=
  match g.phase with
  | .load =>
    guardSpace s .hist (rowIndices p) <|
      .next (setScanGroup s groups p { phase := .scan, scan := (rowIndices p).map (loadWord s .hist) })
  | .scan =>
    guardSpace s .hist (rowIndices p) <|
      .next (setScanGroup (storeWords s .hist (rowStores p (blellochScan 8 g.scan))) groups p
        { phase := .done, scan := blellochScan 8 g.scan })
  | .done => .next s

/-- PREFIX's dispatch: exactly 4 workgroups (R150). -/
def startScan (s : State) : State :=
  { s with fresh := s.fresh + 1, executing := some (.scan ((List.range 4).map (scanGroupStart s))) }

/-- The moves a prefix workgroup has left. -/
def scanGroupWork (g : ScanGroup) : Nat :=
  match g.phase with
  | .load => 2
  | .scan => 1
  | .done => 0

end Sys2Proof.Machine
end

