-- ==== Sys2Proof/Machine/Scatter.lean ====
section
/-! DEFINITION. The scatter workgroups and their digit lanes: load and local ranking, publication, decoupled
look-back, index assignment and write (43_scatter.md R172 to R190), one move of one agent at a time
(20_memory.md R80, log 5). -/

namespace Sys2Proof.Machine

/-- The executing dispatch becomes this one. -/
def setScatter (s : State) (run : ScatterRun) : State := { s with executing := some (.scatter run) }

/-- The dispatch with workgroup w replaced. -/
def ScatterRun.setGroup (run : ScatterRun) (w : Nat) (g : ScatterGroup) : ScatterRun :=
  { run with groups := run.groups.set w g }

/-- The workgroup with lane d replaced. -/
def ScatterGroup.setLane (g : ScatterGroup) (d : Nat) (l : Lane) : ScatterGroup :=
  { g with lanes := g.lanes.set d l }

/-! ## Start, load and local ranking -/

/-- A digit lane of workgroup w before its PUBLISH; cursor, acc and retries as R43 gives them. -/
def laneStart (w : Nat) : Lane where
  lstate := .waiting
  cursor := w - 1
  acc := 0
  retries := 0
  seenSlot := 0
  seenFailed := 0
  older := []

/-- Scatter workgroup w at its start: LOAD, scatter_failed 0, unspecified storage (R173; 10_state.md R40 to R42;
log 10), one lane per digit. -/
def scatterGroupStart (s : State) (w : Nat) : ScatterGroup where
  phase := .load
  kv := freeArray s 3 w s.cfg.tileS
  pv := freeArray s 4 w s.cfg.tileS
  kr := freeArray s 5 w s.cfg.tileS
  digits := freeArray s 6 w s.cfg.tileS
  counts := freeArray s 7 w 256
  excl := freeArray s 8 w 256
  scatterFailed := false
  lanes := List.replicate 256 (laneStart w)

/-- tile_s(w), in position order (00_scope.md R16). -/
def scatterTile (c : Config) (w : Nat) : List Nat := (List.range c.tileS).map (w * c.tileS + ·)

/-- The digits of a tile (R174). -/
def tileDigits (p : Nat) (keys : List Word) : List Word := keys.map (fun k => digit k p)

/-- rank_w at position o: one more than the number of earlier positions with the same digit (R175). -/
def rankAt (digits : List Word) (o : Nat) : Word :=
  BitVec.ofNat 32 (1 + (digits.take o).count (arrayAt digits o))

/-- The ranks of a tile (R175). The source's sub-group method is informative (R176; log 22). -/
def tileRanks (digits : List Word) : List Word := (List.range digits.length).map (rankAt digits)

/-- local_w, the tile's count of each digit (R177). -/
def tileCounts (p : Nat) (keys : List Word) : List Word := (List.range 256).map (digitCount keys p)

/-- The workgroup after LOAD and local ranking (R174, R175, R177). -/
def scatterLoaded (p : Nat) (keys pays : List Word) (g : ScatterGroup) : ScatterGroup :=
  { g with
    phase := .publish
    kv := keys
    pv := pays
    kr := tileRanks (tileDigits p keys)
    digits := tileDigits p keys
    counts := tileCounts p keys }

/-- LOAD, ranking and the local histogram of workgroup w, one fused move: the source is only read (R174, R80). -/
def scatterLoad (run : ScatterRun) (w : Nat) (g : ScatterGroup) (s : State) : Result :=
  guardSpace s (sourceKeys run.pass) (scatterTile s.cfg w) <|
    guardSpace s (sourcePay run.pass) (scatterTile s.cfg w) <|
      .next (setScatter s (run.setGroup w (scatterLoaded run.pass
        ((scatterTile s.cfg w).map (loadWord s (sourceKeys run.pass)))
        ((scatterTile s.cfg w).map (loadWord s (sourcePay run.pass))) g)))

/-! ## Publication -/

/-- AtomicStore(HIST, PIDX(w, d), v) by lane (w, d): the word's value until now joins the lane's older ones. -/
def publishWord (s : State) (w d : Nat) (v : Word) : State := storeWord s .hist (pidx w d) v

/-- The lane after a store to its partition word, given what the word held. -/
def Lane.stored (l : Lane) (before : Word) : Lane := { l with older := before :: l.older }

/-- Lane (w, d), w > 0: publish the tile's count as Aggregate (R178). -/
def publishAggregate (run : ScatterRun) (w d : Nat) (g : ScatterGroup) (l : Lane) (s : State) : Result :=
  guardSpace s .hist [pidx w d] <|
    .next (setScatter (publishWord s w d (psw (aggTag run.pass) (arrayAt g.counts d)))
      (run.setGroup w (g.setLane d { l.stored (loadWord s .hist (pidx w d)) with lstate := .published })))

/-- Lane (0, d), first half: read the pass's global base into shared.excl (R179). -/
def readBase (run : ScatterRun) (w d : Nat) (g : ScatterGroup) (l : Lane) (s : State) : Result :=
  guardSpace s .hist [hidx run.pass d] <|
    .next (setScatter s (run.setGroup w
      { g.setLane d { l with lstate := .based } with excl := g.excl.set d (loadWord s .hist (hidx run.pass d)) }))

/-- Lane (0, d), second half: publish base plus own count as Prefix; the lane is resolved (R179). -/
def publishFirst (run : ScatterRun) (w d : Nat) (g : ScatterGroup) (l : Lane) (s : State) : Result :=
  guardSpace s .hist [pidx w d] <|
    .next (setScatter
      (publishWord s w d (psw (preTag run.pass) (arrayAt g.excl d + arrayAt g.counts d)))
      (run.setGroup w (g.setLane d { l.stored (loadWord s .hist (pidx w d)) with lstate := .resolved })))

/-- One PUBLISH move of lane (w, d). -/
def publishMove (run : ScatterRun) (w d : Nat) (g : ScatterGroup) (l : Lane) (s : State) : Result :=
  match l.lstate with
  | .waiting => if w = 0 then readBase run w d g l s else publishAggregate run w d g l s
  | .based => publishFirst run w d g l s
  | _ => .next s

/-- A lane as look-back starts (R178). -/
def Lane.startWalk (l : Lane) (w : Nat) : Lane :=
  { l with lstate := .walking, cursor := w - 1, acc := 0, retries := 0, seenSlot := 0, seenFailed := 0 }

/-- The barrier after PUBLISH: workgroup 0 goes on to WRITE (R179), every other starts to walk (R178). -/
def publishBarrier (run : ScatterRun) (w : Nat) (g : ScatterGroup) (s : State) : Result :=
  .next (setScatter s (run.setGroup w
    (if w = 0 then { g with phase := .write }
     else { g with phase := .lookback, lanes := g.lanes.map (fun l => l.startWalk w) })))

/-! ## Decoupled look-back -/

/-- What the word of slot v, digit d, held before its latest store of this dispatch, newest first. -/
def slotOlder (run : ScatterRun) (v d : Nat) : List Word :=
  match run.groups[v]? with
  | none => []
  | some g =>
    match g.lanes[d]? with
    | none => []
    | some l => l.older

/-- abort(w, d): no store, no flag but the workgroup's (R184). -/
def abortLane (run : ScatterRun) (w d : Nat) (g : ScatterGroup) (l : Lane) (s : State) : Result :=
  .next (setScatter s (run.setGroup w
    { g.setLane d { l with lstate := .aborted } with scatterFailed := true }))

/-- fail_lookback(w, d): the soft failure (R186). -/
def failLookback (run : ScatterRun) (w d : Nat) (g : ScatterGroup) (l : Lane) (s : State) : Result :=
  .next (setScatter (setSortFailed s)
    { run.setGroup w
        { g.setLane d { l with lstate := .failed, retries := l.retries + 1 } with scatterFailed := true } with
      failedOlder := s.sortFailed :: run.failedOlder })

/-- A Prefix word was found: shared.excl takes the total, the lane publishes it with its own count and is resolved
(R185), whatever its sibling lanes did (R187). -/
def resolveLane (run : ScatterRun) (w d : Nat) (g : ScatterGroup) (l : Lane) (c : Word) (s : State) : Result :=
  guardSpace s .hist [pidx w d] <|
    .next (setScatter
      (publishWord s w d (psw (preTag run.pass) (l.acc + c + arrayAt g.counts d)))
      (run.setGroup w
        { g.setLane d { l.stored (loadWord s .hist (pidx w d)) with lstate := .resolved, acc := l.acc + c } with
          excl := g.excl.set d (l.acc + c) }))

/-- An Aggregate word was found above slot 0: add it and move to the slot before, with a fresh budget (R185). -/
def advanceLane (run : ScatterRun) (w d : Nat) (g : ScatterGroup) (l : Lane) (c : Word) (s : State) : Result :=
  .next (setScatter s (run.setGroup w
    (g.setLane d { l with acc := l.acc + c, cursor := l.cursor - 1, retries := 0, seenSlot := 0 })))

/-- A not-ready poll within the budget (R185, R251). -/
def retryLane (run : ScatterRun) (w d : Nat) (g : ScatterGroup) (l : Lane) (s : State) : Result :=
  .next (setScatter s (run.setGroup w (g.setLane d { l with retries := l.retries + 1 })))

/-- Poll, part 2: the slot read and what follows from it (R185). -/
def pollSlot (run : ScatterRun) (w d : Nat) (g : ScatterGroup) (l : Lane) (s : State) : Result :=
  guardSpace s .hist [pidx l.cursor d] <|
    let v := loadCoherent (loadWord s .hist (pidx l.cursor d)) (slotOlder run l.cursor d) l.seenSlot s
    let l' := { l with seenSlot := v.1 }
    match pollOutcome run.pass s.cfg.spinBudget l.cursor l.retries v.2.1 with
    | .resolve c => resolveLane run w d g l' c v.2.2
    | .advance c => advanceLane run w d g l' c v.2.2
    | .contention => retryLane run w d g l' v.2.2
    | .budget => failLookback run w d g l' v.2.2

/-- poll(w, d): SORT_FAILED first (R183), and the slot only while it reads 0 (R257). -/
def poll (run : ScatterRun) (w d : Nat) (g : ScatterGroup) (l : Lane) (s : State) : Result :=
  let f := loadCoherent s.sortFailed run.failedOlder l.seenFailed s
  let l' := { l with seenFailed := f.1 }
  if f.2.1 ≠ 0 then abortLane run w d g l' f.2.2 else pollSlot run w d g l' f.2.2

/-- The barrier at the end of look-back (R188). -/
def lookbackBarrier (run : ScatterRun) (w : Nat) (g : ScatterGroup) (s : State) : Result :=
  .next (setScatter s (run.setGroup w { g with phase := if g.scatterFailed then .failed else .write }))

/-! ## Index assignment and write -/

/-- dst at position o of the tile: shared.excl of its digit, plus its rank, minus 1 (R189). -/
def dstAt (g : ScatterGroup) (o : Nat) : Nat :=
  (arrayAt g.excl (arrayAt g.digits o).toNat + arrayAt g.kr o - 1).toNat

/-- One element to write: its destination index, key and payload. -/
structure Placed where
  index : Nat
  key : Word
  pay : Word
  deriving DecidableEq, Repr

/-- The elements of the tile with their destinations, in position order (R190). -/
def placements (c : Config) (g : ScatterGroup) : List Placed :=
  (List.range c.tileS).map fun o => { index := dstAt g o, key := arrayAt g.kv o, pay := arrayAt g.pv o }

/-- The order of a tile's writes. "For all" has no defined order (00_scope.md R15), and only where two elements have
one destination does it matter: then draws choose it (log 11). -/
def writeOrder (ps : List Placed) (s : State) : List Placed × State :=
  if (ps.map Placed.index).Nodup then (ps, s) else shuffle ps.length ps s

/-- The key and payload writes of a tile (R190). -/
def placeAll (s : State) (p : Nat) (ps : List Placed) : State :=
  storeWords (storeWords s (destKeys p) (ps.map fun x => (x.index, x.key)))
    (destPay p) (ps.map fun x => (x.index, x.pay))

/-- The elements of the tile that WRITE stores: those with a destination below PADDED_SIZE, since no command accesses
another index (10_state.md R34, 20_memory.md R67). In a pass over an exact row these are all of them (R194); over stale
data, or a row that the host rewrote, an element whose destination lies above is not stored (DEDUCED, log 12). -/
def stored (c : Config) (run : ScatterRun) (g : ScatterGroup) : List Placed :=
  (placements c g).filter (fun x => x.index < run.size)

/-- WRITE of workgroup w, then DONE (R190). -/
def scatterWrite (run : ScatterRun) (w : Nat) (g : ScatterGroup) (s : State) : Result :=
  guardSpace s (destKeys run.pass) ((stored s.cfg run g).map Placed.index) <|
    guardSpace s (destPay run.pass) ((stored s.cfg run g).map Placed.index) <|
      let o := writeOrder (stored s.cfg run g) s
      .next (setScatter (placeAll o.2 run.pass o.1) (run.setGroup w { g with phase := .done }))

/-! ## The moves -/

/-- The lane's next move is its own: it has still to publish. -/
def Lane.publishing (l : Lane) : Bool :=
  match l.lstate with
  | .waiting => true
  | .based => true
  | _ => false

/-- The lane polls (R182: a poll is enabled exactly when the lane is WALKING). -/
def Lane.polling (l : Lane) : Bool :=
  match l.lstate with
  | .walking => true
  | _ => false

/-- A move of workgroup w as a whole: LOAD, the two barriers, WRITE. DONE and FAILED are terminal. -/
def scatterGroupMove (run : ScatterRun) (w : Nat) (g : ScatterGroup) (s : State) : Result :=
  match g.phase with
  | .load => scatterLoad run w g s
  | .publish => publishBarrier run w g s
  | .lookback => lookbackBarrier run w g s
  | .write => scatterWrite run w g s
  | .done => .next s
  | .failed => .next s

/-- A move of digit lane (w, d). -/
def laneMove (run : ScatterRun) (w d : Nat) (g : ScatterGroup) (l : Lane) (s : State) : Result :=
  match g.phase with
  | .publish => publishMove run w d g l s
  | .lookback => poll run w d g l s
  | _ => .next s

/-- The digits whose lanes satisfy f, in order. -/
def lanesWhere (f : Lane → Bool) (lanes : List Lane) : List Nat :=
  (lanes.zipIdx.filter (fun x => f x.1)).map Prod.snd

/-- The agents through which workgroup w can move now (R172, R182, R188): its lanes while they publish or walk, itself
otherwise, nobody once it is terminal. -/
def scatterGroupAgents (w : Nat) (g : ScatterGroup) : List Agent :=
  match g.phase with
  | .load => [.group w]
  | .publish =>
    match lanesWhere Lane.publishing g.lanes with
    | [] => [.group w]
    | ds => ds.map (.lane w)
  | .lookback =>
    match lanesWhere Lane.polling g.lanes with
    | [] => [.group w]
    | ds => ds.map (.lane w)
  | .write => [.group w]
  | .done => []
  | .failed => []

/-- The dispatch of a scatter of pass p: PADDED_SIZE read, P workgroups started (R170, R173; 30_encoding.md R94). -/
def startScatter (p : Nat) (s : State) : State :=
  { s with
    fresh := s.fresh + 1
    executing := some (.scatter
      { pass := p, size := s.paddedSize.toNat,
        groups := (List.range (scatterGrid s.cfg s.paddedSize.toNat)).map (scatterGroupStart s),
        failedOlder := [] }) }

/-- A bound on the moves a lane of workgroup w has left, by the phase of its workgroup. Walking from slot `cursor` costs
at most SPIN_BUDGET + 1 polls a slot (R200). -/
def laneWork (budget w : Nat) (ph : ScatterPhase) (l : Lane) : Nat :=
  match ph with
  | .load => w * (budget + 2) + budget + 7
  | .publish =>
    match l.lstate with
    | .waiting => w * (budget + 2) + budget + 6
    | .based => w * (budget + 2) + budget + 5
    | _ => w * (budget + 2) + budget + 4
  | .lookback => if l.polling then l.cursor * (budget + 2) + (budget + 1 - l.retries) + 1 else 0
  | .write => 0
  | .done => 0
  | .failed => 0

/-- A bound on the moves workgroup w has left. -/
def scatterGroupWork (budget w : Nat) (g : ScatterGroup) : Nat :=
  (match g.phase with
   | .load => 4
   | .publish => 3
   | .lookback => 2
   | .write => 1
   | .done => 0
   | .failed => 0)
  + (g.lanes.map (laneWork budget w g.phase)).sum

end Sys2Proof.Machine
end

