-- ==== Sys2Proof/Machine/Sequencer.lean ====
section
/-! DEFINITION. The sequencer and the run of a dispatch (44_orchestrator.md R220 to R232): ZERO, the completion
actions, the agents that can move, one move of one of them, and the run of a command to its end. -/

namespace Sys2Proof.Machine

/-! ## ZERO and the completion actions -/

/-- ZERO's dispatch: PADDED_SIZE read, no workgroups (R221; 30_encoding.md R94). -/
def startZero (s : State) : State := { s with executing := some (.zero s.paddedSize.toNat false) }

/-- The AtomicStores of ZERO: 0 to HIST[0 .. 1024 + 256·P) (R221). -/
def zeroStores (c : Config) (size : Nat) : List (Nat × Word) :=
  (List.range (sortHistWords c size)).map fun j => (j, 0)

/-- What ZERO's pseudocode writes, its completion still to come (R221). DESIGN CHOICE (log 5): the spec leaves open how
these writes lie between the moves of the host, and the model makes them one move, so that a READ of STATUS meanwhile
shows CMD_ERR either before all of them or after all. -/
def zeroClear (s : State) (size : Nat) : State :=
  { storeWords s .hist (zeroStores s.cfg size) with
    evenPass := 0
    oddPass := 0
    sortFailed := 0
    cmdErr := false
    executing := some (.zero size true) }

/-- ZERO's stores, executed by the sequencer itself (R221). -/
def zeroMove (s : State) (size : Nat) : Result :=
  guardSpace s .hist (List.range (sortHistWords s.cfg size)) <| .next (zeroClear s size)

/-- ZERO completes (R221, R227). DESIGN CHOICE (log 5): as for every command, its completion actions and the end of its
execution are one move of the sequencer, so that a READ of STATUS never shows the new PHASE with the command still
executing. -/
def zeroDone (s : State) : State := { s with phase := .zeroed, executing := none }

/-- HISTOGRAM completes (R227). -/
def histogramDone (s : State) : State := { s with phase := .histogrammed, executing := none }

/-- PREFIX completes (R227). -/
def scanDone (s : State) : State := { s with phase := .scanned, executing := none }

/-- SCATTER.EVEN completes, failed or not (R227). -/
def scatterEvenDone (s : State) : State := { s with evenPass := s.evenPass + 1, executing := none }

/-- SCATTER.ODD completes, failed or not; when ODD_PASS becomes 2 the sort is SORTED (R227, R231). -/
def scatterOddDone (s : State) : State :=
  { s with
    oddPass := s.oddPass + 1
    phase := if s.oddPass + 1 = 2 then .sorted else s.phase
    executing := none }

/-- The sequencer's move while a command executes: ZERO's stores, or the completion actions once every workgroup is
terminal (R225, R227). -/
def completeMove (e : Executing) (s : State) : Result :=
  match e with
  | .zero size cleared => if cleared then .next (zeroDone s) else zeroMove s size
  | .histogram _ => .next (histogramDone s)
  | .scan _ => .next (scanDone s)
  | .scatter run => .next (if run.pass % 2 = 0 then scatterEvenDone s else scatterOddDone s)

/-! ## The agents that can move -/

/-- The workgroup and lane agents of a dispatch that can move, in index order. -/
def dispatchAgents : Executing → List Agent
  | .zero _ _ => []
  | .histogram run =>
    (run.groups.zipIdx.filter (fun x => x.1.phase != .done)).map (fun x => .group x.2)
  | .scan groups => (groups.zipIdx.filter (fun x => x.1.phase != .done)).map (fun x => .group x.2)
  | .scatter run => run.groups.zipIdx.flatMap (fun x => scatterGroupAgents x.2 x.1)

/-- The engine's agents that can move (20_memory.md R69, 60_exceptions.md R268): the agents of the executing dispatch,
or the sequencer when all of them are terminal; the sequencer when no command executes and the queue is
non-empty (R225). -/
def engineAgents (s : State) : List Agent :=
  match s.executing with
  | some e =>
    match dispatchAgents e with
    | [] => [.sequencer]
    | as => as
  | none => if s.queue.isEmpty then [] else [.sequencer]

/-- All agents that can move: the engine's, then the host. -/
def enabledAgents (s : State) : List Agent := engineAgents s ++ (if hostReady s then [.host] else [])

/-- A move of workgroup w of the executing dispatch. -/
def groupMove (e : Executing) (w : Nat) (s : State) : Result :=
  match e with
  | .zero _ _ => .next s
  | .histogram run =>
    match run.groups[w]? with
    | none => .next s
    | some g => histGroupMove run w g s
  | .scan groups =>
    match groups[w]? with
    | none => .next s
    | some g => scanGroupMove groups w g s
  | .scatter run =>
    match run.groups[w]? with
    | none => .next s
    | some g => scatterGroupMove run w g s

/-- A move of digit lane (w, d) of the executing dispatch. -/
def digitLaneMove (e : Executing) (w d : Nat) (s : State) : Result :=
  match e with
  | .scatter run =>
    match run.groups[w]? with
    | none => .next s
    | some g =>
      match g.lanes[d]? with
      | none => .next s
      | some l => laneMove run w d g l s
  | _ => .next s

/-- The move of agent a while command e executes. -/
def agentMove (e : Executing) (a : Agent) (s : State) : Result :=
  match a with
  | .host => hostMove s
  | .sequencer => completeMove e s
  | .group w => groupMove e w s
  | .lane w d => digitLaneMove e w d s

/-- One move of a state in which command e executes: a draw picks the agent (R69, R172; log 4). -/
def dispatchMove (e : Executing) (s : State) : Result :=
  match pick (enabledAgents s) s with
  | none => .next s
  | some (a, s') => agentMove e a s'

/-! ## The run of a command -/

/-- The moves a dispatch has left, the completion among them. -/
def executingWork (c : Config) : Executing → Nat
  | .zero _ cleared => if cleared then 1 else 2
  | .histogram run => 1 + (run.groups.map histGroupWork).sum
  | .scan groups => 1 + (groups.map scanGroupWork).sum
  | .scatter run => 1 + (run.groups.zipIdx.map (fun x => scatterGroupWork c.spinBudget x.2 x.1)).sum

/-- A bound on the moves until no command executes, those of the host among them. Every move of an executing dispatch
makes it smaller (43_scatter.md R200; log 13). -/
def remainingMoves (s : State) : Nat :=
  match s.executing with
  | none => 0
  | some e => executingWork s.cfg e + s.host.length

/-- Moves until no command executes, at most n. -/
def runMoves : Nat → State → Result
  | 0, s => .next s
  | n + 1, s =>
    match s.executing with
    | none => .next s
    | some e =>
      match dispatchMove e s with
      | .next s' => runMoves n s'
      | .fault r => .fault r
      | .refused r => .refused r

/-- The run of a started command to its end (10_state.md R32): remainingMoves bounds it, so it is never cut short. -/
def runToEnd (s : State) : Result := runMoves (remainingMoves s) s

/-- The sequencer with a decoded command (R225): discarded when out of sequence (R232), refused when the sizes are
illegal (60_exceptions.md R256), otherwise started and run to its end. -/
def runCommand (accepted : Bool) (start : State → State) (s : State) : Result :=
  if accepted then
    if sizesLegal s then runToEnd (start s) else .refused .capacity
  else .next (discard s)

end Sys2Proof.Machine
end

