-- ==== Sys2Proof/Machine/Commands.lean ====
section
/-! DEFINITION. The meanings of the five commands: when each is accepted (44_orchestrator.md R232) and the dispatch it
starts. exec gives each the state from which its word has been dequeued. -/

namespace Sys2Proof.Machine

/-- HISTOGRAM is accepted in PHASE 1 (R232). -/
def histogramAccepted (s : State) : Bool := s.phase == .zeroed

/-- PREFIX is accepted in PHASE 2 (R232). -/
def prefixAccepted (s : State) : Bool := s.phase == .histogrammed

/-- SCATTER.EVEN is accepted in PHASE 3 with EVEN_PASS = ODD_PASS ≤ 1 (R232). -/
def scatterEvenAccepted (s : State) : Bool :=
  s.phase == .scanned && s.evenPass == s.oddPass && s.evenPass.toNat ≤ 1

/-- SCATTER.ODD is accepted in PHASE 3 with EVEN_PASS = ODD_PASS + 1, compared as naturals (R232; log 21). -/
def scatterOddAccepted (s : State) : Bool :=
  s.phase == .scanned && s.evenPass.toNat == s.oddPass.toNat + 1

/-- ZERO (R221), accepted in every phase (R232). -/
def execZero (s : State) : Result := runCommand true startZero s

/-- HISTOGRAM (41_histogram.md R130). -/
def execHistogram (s : State) : Result := runCommand (histogramAccepted s) startHistogram s

/-- PREFIX (42_prefix.md R150). -/
def execPrefix (s : State) : Result := runCommand (prefixAccepted s) startScan s

/-- SCATTER.EVEN (43_scatter.md R170). -/
def execScatterEven (s : State) : Result :=
  runCommand (scatterEvenAccepted s) (startScatter (evenPassIndex s)) s

/-- SCATTER.ODD (43_scatter.md R171). -/
def execScatterOdd (s : State) : Result :=
  runCommand (scatterOddAccepted s) (startScatter (oddPassIndex s)) s

end Sys2Proof.Machine
end

