-- ==== Sys2Proof/Machine/Dispatch.lean ====
section
/-! DEFINITION. exec: one arm for each command (30_encoding.md R91). -/

namespace Sys2Proof.Machine

def exec (i : Instr) (s : State) : Host.Outcome State Fault Refusal :=
  match i with
  | .zero => Sys2Proof.Machine.execZero s
  | .histogram => Sys2Proof.Machine.execHistogram s
  | .prefixScan => Sys2Proof.Machine.execPrefix s
  | .scatterEven => Sys2Proof.Machine.execScatterEven s
  | .scatterOdd => Sys2Proof.Machine.execScatterOdd s

end Sys2Proof.Machine
end

