-- ==== Sys2Proof/Machine/Fetch.lean ====
section
/-! DEFINITION. What moves while no command executes: the sequencer takes the next command word, or the host moves
(44_orchestrator.md R225); and putting a word where the sequencer takes its next one. -/

namespace Sys2Proof.Machine

/-- The sequencer's move while no command executes: dequeue and decode; an illegal word is discarded
(30_encoding.md R93), a command executes. -/
def sequencerMove (s : State) : Result :=
  match fetch s with
  | none => .next s
  | some (.error _, s') => .next (discard s')
  | some (.ok i, s') => exec i s'

/-- A move while no command executes: a draw picks the sequencer or the host among those that can move; with neither
able to, the block waits (70_reset_and_hazards.md R282; log 25). -/
def idleMove (s : State) : Result :=
  match pick (enabledAgents s) s with
  | none => .next s
  | some (.host, s') => hostMove s'
  | some (_, s') => sequencerMove s'

/-- s with no command executing, the given word at the queue's head, and, where the host could move as well, a draw
that picks the sequencer: the next move takes that word (log 8). -/
def placeCommandWord (s : State) (c : Word) : State :=
  let s' := putHead { s with executing := none } c
  { s' with sched := if hostReady s' then 0 :: s'.sched else s'.sched }

end Sys2Proof.Machine
end

