-- ==== Sys2Proof/Machine/Step.lean ====
section
/-! DEFINITION. One step of the block with its host and its schedule (44_orchestrator.md R225). -/

namespace Sys2Proof.Machine

/-- One step. While a command executes: one move of one agent of it, or of the host. Otherwise the sequencer takes the
next command word and runs the command to its end, or the host moves, or the block waits. -/
def step (s : State) : Host.Outcome State Fault Refusal :=
  match s.executing with
  | some e => dispatchMove e s
  | none => idleMove s

/-- The state whose next step fetches and runs the command word w (log 8): the queue is where step fetches. -/
def State.withFetchWord (s : State) (nbits w : Nat) : State :=
  placeCommandWord s (BitVec.ofNat 32 (w % 2 ^ nbits))

end Sys2Proof.Machine
end

