-- ==== Sys2Proof/WellFormed.lean ====
section
/-! DEFINITION. Which terms are well formed: commands (every one is, since none carries an operand) and parameter
sets (the constraints of 00_scope.md R10). -/

namespace Sys2Proof

/-- A command has no operand and no immediate (30_encoding.md R94), so there is nothing to check. -/
def Instr.wellFormed : Instr → Bool
  | .zero => true
  | .histogram => true
  | .prefixScan => true
  | .scatterEven => true
  | .scatterOdd => true

/-- HIST_WG_SIZE, HIST_BLOCK_ROWS, SCATTER_WG_SIZE and SCATTER_BLOCK_ROWS are at least 1 (R10). -/
def Config.sizesOk (c : Config) : Bool :=
  1 ≤ c.histWgSize && 1 ≤ c.histBlockRows && 1 ≤ c.scatterWgSize && 1 ≤ c.scatterBlockRows

/-- SUBGROUP_SIZE is at least 1 and divides SCATTER_WG_SIZE (R10). -/
def Config.subgroupOk (c : Config) : Bool :=
  1 ≤ c.subgroupSize && c.scatterWgSize % c.subgroupSize == 0

/-- CAP is a multiple of T_s and at most 0x3FFFFFFF (R10, D23). -/
def Config.capOk (c : Config) : Bool :=
  c.cap % c.tileS == 0 && c.cap ≤ Config.countMax

/-- QUEUE_DEPTH is at least 1 (R10, D4). -/
def Config.queueOk (c : Config) : Bool := 1 ≤ c.queueDepth

/-- The constraints on the parameters (00_scope.md R10). SPIN_BUDGET ≥ 0 holds of every natural number; the
disjointness of the spaces is no constraint here but part of the sequencer's check (60_exceptions.md R256). -/
def Config.wf (c : Config) : Bool :=
  c.sizesOk && c.subgroupOk && c.capOk && c.queueOk

end Sys2Proof
end

