-- ==== Sys2Proof/Safety.lean ====
section
/-! DEFINITION. The terms the claims use: the invariant of the machine, the shape of a running scatter, the host's
duties, the composite effects of the commands, and a sort. -/

namespace Sys2Proof.Machine

/-! ## The invariant of the machine -/

/-- Every space's contents are in canonical form and lie inside the space. -/
def State.memOk (s : State) : Bool :=
  [Space.keysA, .keysB, .payA, .payB, .hist].all fun sp =>
    Memory.wf (memOf s sp) && Memory.within (memOf s sp) (spaceWords s.cfg sp)

/-- The values the pass counters have in each phase (44_orchestrator.md R228); in PHASE 0 they may be anything, since
reset leaves them unspecified (10_state.md R47). -/
def countersFit (ph : Phase) (even odd : Nat) : Bool :=
  match ph with
  | .unprepared => true
  | .zeroed => even == 0 && odd == 0
  | .histogrammed => even == 0 && odd == 0
  | .scanned => odd ≤ even && even ≤ odd + 1 && odd ≤ 1
  | .sorted => even == 2 && odd == 2

/-- The registers are as the phase has them (44_orchestrator.md R228); between ZERO's stores and its completion they are
cleared already, whatever the phase still is (R221). -/
def registersFit (s : State) : Bool :=
  match s.executing with
  | some (.zero _ true) => s.evenPass == 0 && s.oddPass == 0 && s.sortFailed == 0 && !s.cmdErr
  | _ => countersFit s.phase s.evenPass.toNat s.oddPass.toNat

/-- The executing command is one that the phase and the counters let start (44_orchestrator.md R226, R232). -/
def executingFits (s : State) : Bool :=
  match s.executing with
  | none => true
  | some (.zero _ _) => true
  | some (.histogram _) => s.phase == .zeroed
  | some (.scan _) => s.phase == .histogrammed
  | some (.scatter run) =>
    s.phase == .scanned
      && ((run.pass == 2 * s.evenPass.toNat && s.evenPass.toNat == s.oddPass.toNat && s.evenPass.toNat ≤ 1)
        || (run.pass == 2 * s.oddPass.toNat + 1 && s.evenPass.toNat == s.oddPass.toNat + 1))

/-- What every step keeps: memory canonical and inside the spaces, at most QUEUE_DEPTH words queued (R33), the
counters and the executing command as the phase has them (R228, R232). -/
def State.inv (s : State) : Bool :=
  s.memOk && s.queue.length ≤ s.cfg.queueDepth && registersFit s && executingFits s

/-! ## The shape of a running scatter -/

/-- A lane has reached a terminal state (43_scatter.md R181). -/
def Lane.terminal (l : Lane) : Bool :=
  match l.lstate with
  | .resolved => true
  | .failed => true
  | .aborted => true
  | _ => false

/-- A lane failed or aborted. -/
def Lane.lost (l : Lane) : Bool :=
  match l.lstate with
  | .failed => true
  | .aborted => true
  | _ => false

/-- A lane of workgroup w as the phase of its workgroup allows it, with as many stores behind it as R72 says: none
before PUBLISH, one after it, a second only when a lane of w > 0 resolves. -/
def laneFits (budget w : Nat) (ph : ScatterPhase) (l : Lane) : Bool :=
  match ph with
  | .load => l == laneStart w
  | .publish =>
    (match l.lstate with
     | .waiting => l.older.length == 0
     | .based => w == 0 && l.older.length == 0
     | .published => w != 0 && l.older.length == 1
     | .resolved => w == 0 && l.older.length == 1
     | _ => false)
  | .lookback =>
    w != 0 && l.cursor < w &&
    (match l.lstate with
     | .walking => l.retries ≤ budget && l.older.length == 1
     | .resolved => l.older.length == 2
     | .failed => l.older.length == 1
     | .aborted => l.older.length == 1
     | _ => false)
  | .write => l.lstate == .resolved && l.older.length == (if w = 0 then 1 else 2)
  | .done => l.lstate == .resolved && l.older.length == (if w = 0 then 1 else 2)
  | .failed => w != 0 && l.terminal && l.older.length == (if l.lstate == .resolved then 2 else 1)

/-- A workgroup has one lane per digit, each as the phase allows, and scatter_failed is set exactly when one of them
failed or aborted (R184, R186, R188). -/
def groupFits (budget w : Nat) (g : ScatterGroup) : Bool :=
  g.lanes.length == 256 && g.lanes.all (laneFits budget w g.phase)
    && g.scatterFailed == g.lanes.any Lane.lost
    && (g.phase != .failed || g.scatterFailed)

/-- Every workgroup of a running scatter fits. -/
def runFits (budget : Nat) (run : ScatterRun) : Bool :=
  run.groups.zipIdx.all (fun x => groupFits budget x.2 x.1)

/-- The partition word of lane (w, d) and the values it held before, as the lane's state has them (20_memory.md R72,
43_scatter.md R178, R179, R185): nothing stored before PUBLISH; then, for w > 0, the tile's count as Aggregate; once the
lane is resolved, base plus count as Prefix, stored over the Aggregate (w > 0) or as its only store (w = 0). -/
def laneWordFits (s : State) (pass w d : Nat) (g : ScatterGroup) (l : Lane) : Bool :=
  let word := loadWord s .hist (pidx w d)
  let aggregate := psw (aggTag pass) (arrayAt g.counts d)
  match l.lstate with
  | .waiting => l.older == []
  | .based => l.older == []
  | .resolved =>
    word == psw (preTag pass) (arrayAt g.excl d + arrayAt g.counts d)
      && (if w = 0 then l.older.length == 1 else l.older.length == 2 && l.older.head? == some aggregate)
  | _ => w != 0 && word == aggregate && l.older.length == 1

/-- Every partition word of a running scatter is as its lane's state has it. -/
def wordsFit (s : State) (run : ScatterRun) : Bool :=
  run.groups.zipIdx.all fun x =>
    x.1.excl.length == 256 && x.1.lanes.zipIdx.all fun y => laneWordFits s run.pass x.2 y.2 x.1 y.1

/-! ## The host's duties -/

/-- The host operations without a move, row by row as 70_reset_and_hazards.md R290 lists them. -/
def dutyBroken (s : State) : HostOp → Bool
  | .write .registers offset size _ =>
    !oneAlignedWord offset size || (regAt offset).isNone
      || ((offset == 0x00 || offset == 0x04) && busy s)
      || (offset == 0x14 && s.cfg.queueDepth ≤ s.queue.length)
      || offset == 0x08 || offset == 0x0C || offset == 0x10 || offset == 0x18
  | .read .registers offset size =>
    !oneAlignedWord offset size || (regAt offset).isNone || (offset != 0x18 && busy s)
  | .write (.space sp) offset size _ =>
    !oneAlignedWord offset size || spaceWords s.cfg sp ≤ offset / 4 || busy s
  | .read (.space sp) offset size =>
    !oneAlignedWord offset size || spaceWords s.cfg sp ≤ offset / 4 || busy s
  | .wait => false
  | .reset => false

/-! ## The composite effects -/

/-- key'(i) of 41_histogram.md R130: KEYS_A[i] for a live element, SENTINEL for padding. -/
def paddedKey (s : State) (i : Nat) : Word :=
  if i < s.numKeys.toNat then loadWord s .keysA i else Config.sentinel

/-- #{ i in [0, n) : digit(key(i), p) = d }. -/
def countDigit (key : Nat → Word) (p n d : Nat) : Nat :=
  (List.range n).countP fun i => (digit (key i) p).toNat == d

/-- #{ i in [0, n) : digit(key(i), p) < d }. -/
def countBelow (key : Nat → Word) (p n d : Nat) : Nat :=
  (List.range n).countP fun i => (digit (key i) p).toNat < d

/-- The place of element i in the stable counting sort of n elements by digit p (43_scatter.md R170, R193). -/
def stablePos (key : Nat → Word) (p n i : Nat) : Nat :=
  countBelow key p n (digit (key i) p).toNat + countDigit key p i (digit (key i) p).toNat

/-- key(i) of a scatter pass (43_scatter.md, opening). -/
def sourceKey (s : State) (p i : Nat) : Word := loadWord s (sourceKeys p) i

/-- pay(i) of a scatter pass. -/
def sourcePayload (s : State) (p i : Nat) : Word := loadWord s (sourcePay p) i

/-- Row p of HIST holds the exclusive prefix sums of the source's digit counts (42_prefix.md R150, 43_scatter.md R194). -/
def rowExact (s : State) (p : Nat) : Prop :=
  ∀ d < 256, loadWord s .hist (hidx p d)
    = BitVec.ofNat 32 (countBelow (sourceKey s p) p s.paddedSize.toNat d)

/-- Every partition word a pass reads is Invalid for it (30_encoding.md R102). -/
def partitionsInvalid (s : State) (p : Nat) : Prop :=
  ∀ w < scatterGrid s.cfg s.paddedSize.toNat, ∀ d < 256, (status (loadWord s .hist (pidx w d)) p).1 = .invalid

/-- Position i of the destination of pass p holds the element of s's source that belongs there. -/
def placedRight (s t : State) (p i : Nat) : Prop :=
  loadWord t (destKeys p) (stablePos (sourceKey s p) p s.paddedSize.toNat i) = sourceKey s p i
    ∧ loadWord t (destPay p) (stablePos (sourceKey s p) p s.paddedSize.toNat i) = sourcePayload s p i

/-- Every byte of the space outside [lo, hi) words reads in t as in s. -/
def sameOutside (s t : State) (sp : Space) (lo hi : Nat) : Prop :=
  ∀ a, a < 4 * lo ∨ 4 * hi ≤ a → Memory.readByte (memOf t sp) a = Memory.readByte (memOf s sp) a

/-- What pass p leaves of s, failed or not (43_scatter.md R170, R171, R199). -/
structure PassResult (s t : State) (p : Nat) : Prop where
  /-- The command has ended. -/
  ended : t.executing = none
  /-- Registers, queue and host, but for SORT_FAILED and the pass counters and PHASE (R227). -/
  registers : t.cfg = s.cfg ∧ t.numKeys = s.numKeys ∧ t.paddedSize = s.paddedSize ∧ t.cmdErr = s.cmdErr
    ∧ t.queue = s.queue ∧ t.host = s.host ∧ t.reads = s.reads
  /-- The source is unchanged. -/
  source : memOf t (sourceKeys p) = memOf s (sourceKeys p) ∧ memOf t (sourcePay p) = memOf s (sourcePay p)
  /-- The destination changes below PADDED_SIZE only. -/
  destination : sameOutside s t (destKeys p) 0 s.paddedSize.toNat ∧ sameOutside s t (destPay p) 0 s.paddedSize.toNat
  /-- HIST changes in the pass's partition words only. -/
  histogram : sameOutside s t .hist 1024 (sortHistWords s.cfg s.paddedSize.toNat)
  /-- SORT_FAILED holds 0 or 1. -/
  flag : t.sortFailed = 0 ∨ t.sortFailed = 1
  /-- A pass that did not fail puts every element where the stable counting sort puts it. -/
  placed : t.sortFailed = 0 → ∀ i < s.paddedSize.toNat, placedRight s t p i
  /-- It leaves every partition word with the Prefix tag and the inclusive running total. -/
  published : t.sortFailed = 0 → ∀ w < scatterGrid s.cfg s.paddedSize.toNat, ∀ d < 256,
    loadWord t .hist (pidx w d) = psw (preTag p)
      (loadWord s .hist (hidx p d) + BitVec.ofNat 32 (countDigit (sourceKey s p) p ((w + 1) * s.cfg.tileS) d))
  /-- A pass that failed leaves each destination position as it was or with the element that belongs there. -/
  stale : t.sortFailed = 1 → ∀ j < s.paddedSize.toNat,
    (loadWord t (destKeys p) j = loadWord s (destKeys p) j ∧ loadWord t (destPay p) j = loadWord s (destPay p) j)
      ∨ ∃ i < s.paddedSize.toNat, stablePos (sourceKey s p) p s.paddedSize.toNat i = j ∧ placedRight s t p i

/-- The commands one after the other (30_encoding.md R108). -/
def execAll : List Instr → State → Result
  | [], s => .next s
  | i :: rest, s =>
    match exec i s with
    | .next t => execAll rest t
    | .fault r => .fault r
    | .refused r => .refused r

/-- The first n elements of buffer A, keys with payloads. -/
def elementsA (s : State) (n : Nat) : List (Word × Word) :=
  (List.range n).map fun i => (loadWord s .keysA i, loadWord s .payA i)

/-- The input of a sort: the elements of buffer A with padding keys as SENTINEL (41_histogram.md R133). -/
def sortInput (s : State) : List (Word × Word) :=
  (List.range s.paddedSize.toNat).map fun i => (paddedKey s i, loadWord s .payA i)

/-- The stable ascending sort by key (40_digit_extractor.md R123; List.mergeSort is stable). -/
def stableSort (xs : List (Word × Word)) : List (Word × Word) := xs.mergeSort (fun a b => a.1 ≤ b.1)

end Sys2Proof.Machine
end

