-- ==== Sys2Proof/Certificates/Slice0/Obligations.lean ====
section
/-! DEFINITION. The statements for the provers. Rule numbers are those of spec/; "log n" is notes/assumptions/n.md. -/

open Sys2Proof Sys2Proof.Machine

/-! ## Command words -/

/-- R90, R91: every command decodes from its word, as a word and as four bytes with others after them. -/
def Obligations.EncodedCommandDecodes : Prop :=
  ∀ (i : Instr) (rest : List Byte), i.wellFormed = true →
    decode (encode i) = .ok i ∧ decodeBytes (bytesOfWord (encode i) ++ rest) = some (.ok i, rest)

/-- R92: decoding is total; it gives a command exactly on the five words of R91 and is illegal on every other word. -/
def Obligations.DecodingIsTotalOnFiveWords : Prop :=
  ∀ c : Word,
    (c.toNat / 256 ≠ 0 → decode c = .error .reservedNotZero) ∧
    (c.toNat / 256 = 0 →
      (c.toNat % 256 = 1 → decode c = .ok .zero) ∧
      (c.toNat % 256 = 2 → decode c = .ok .histogram) ∧
      (c.toNat % 256 = 3 → decode c = .ok .prefixScan) ∧
      (c.toNat % 256 = 4 → decode c = .ok .scatterEven) ∧
      (c.toNat % 256 = 5 → decode c = .ok .scatterOdd) ∧
      (c.toNat % 256 = 0 ∨ 6 ≤ c.toNat % 256 → decode c = .error .noSuchOpcode)) ∧
    (∀ i, decode c = .ok i → c = encode i)

/-- A few words written out from R91 decode to their commands (a sanity statement). -/
def Obligations.WrittenWordsDecode : Prop :=
  decode 0x00000001 = .ok .zero ∧ decode 0x00000002 = .ok .histogram ∧ decode 0x00000003 = .ok .prefixScan
    ∧ decode 0x00000004 = .ok .scatterEven ∧ decode 0x00000005 = .ok .scatterOdd

/-- R93: an illegal word is discarded with CMD_ERR set, nothing else changes, and the next word is the one dequeued and
decoded next. -/
def Obligations.IllegalWordOnlySetsCmdErr : Prop :=
  ∀ (s : State) (c : Word) (rest : List Word), s.executing = none → s.queue = c :: rest →
    (c.toNat / 256 ≠ 0 ∨ c.toNat % 256 = 0 ∨ 6 ≤ c.toNat % 256) →
    let t : State := { s with queue := rest, cmdErr := true }
    sequencerMove s = .next t ∧ (hostReady s = false → step s = .next t) ∧
      ∀ c' rest', rest = c' :: rest' → fetch t = some (decode c', { t with queue := rest' })

/-! ## Partition status words and digits -/

/-- R97: on a count that fits 30 bits the encoder keeps tag and count apart. -/
def Obligations.StatusWordHoldsTagAndCount : Prop :=
  ∀ (tag : BitVec 2) (c : Word), c.toNat ≤ Config.countMax →
    (psw tag c).toNat = tag.toNat * 2 ^ 30 + c.toNat ∧ tagOf (psw tag c) = tag ∧ countOf (psw tag c) = c

/-- R100: the decoding of a partition word, by the parity of the pass and the value of its tag. -/
def Obligations.StatusWordDecodesByParity : Prop :=
  ∀ (v : Word) (p : Nat), (countOf v).toNat = v.toNat % 2 ^ 30 ∧
    (p % 2 = 0 →
      (v.toNat / 2 ^ 30 = 0 → status v p = (.invalid, countOf v)) ∧
      (v.toNat / 2 ^ 30 = 1 → status v p = (.aggregate, countOf v)) ∧
      (v.toNat / 2 ^ 30 = 2 → status v p = (.inclusive, countOf v)) ∧
      (v.toNat / 2 ^ 30 = 3 → status v p = (.foreign, countOf v))) ∧
    (p % 2 = 1 →
      (v.toNat / 2 ^ 30 = 2 → status v p = (.invalid, countOf v)) ∧
      (v.toNat / 2 ^ 30 = 3 → status v p = (.aggregate, countOf v)) ∧
      (v.toNat / 2 ^ 30 = 0 → status v p = (.inclusive, countOf v)) ∧
      (v.toNat / 2 ^ 30 = 1 → status v p = (.foreign, countOf v)))

/-- R98, R102: what a pass publishes it reads back, and what it leaves as Prefix the next pass reads as Invalid; so
does the first pass the words ZERO leaves. -/
def Obligations.RotatedTagsHideThePassBefore : Prop :=
  (∀ (p : Nat) (c : Word), c.toNat ≤ Config.countMax →
    status (psw (aggTag p) c) p = (.aggregate, c) ∧ status (psw (preTag p) c) p = (.inclusive, c)
      ∧ status (psw (preTag p) c) (p + 1) = (.invalid, c)) ∧ status 0 0 = (.invalid, 0)

/-- R120: the digit of pass p is the p-th byte of the key; with the rule's worked example. -/
def Obligations.DigitIsTheByteOfThePass : Prop :=
  (∀ (k : Word) (p : Nat), p < 4 → (digit k p).toNat = k.toNat / 2 ^ (8 * p) % 256) ∧
    digit 0x12345678 0 = 0x78 ∧ digit 0x12345678 1 = 0x56 ∧ digit 0x12345678 2 = 0x34 ∧ digit 0x12345678 3 = 0x12

/-- R122: every digit of SENTINEL is 0xFF, the largest digit there is. -/
def Obligations.SentinelHasTheLargestDigits : Prop :=
  (∀ p < 4, digit Config.sentinel p = 0xFF) ∧ ∀ (k : Word) (p : Nat), (digit k p).toNat ≤ 255

/-- R123: a key is below another exactly when its digit is, at the highest pass where the digits differ. -/
def Obligations.KeysCompareByTheirHighestDifferentDigit : Prop :=
  ∀ a b : Word, a.toNat < b.toNat ↔
    ∃ p < 4, (digit a p).toNat < (digit b p).toNat ∧ ∀ q, p < q → q < 4 → digit a q = digit b q

/-! ## Reset, registers and the host -/

/-- R47, R282: after reset STATUS reads 0, the queue is empty, no command executes, and the block waits. That no host
operation is listed, and that a waiting step answers the same state, are the model's choices (log 7, log 25). -/
def Obligations.ResetLeavesTheBlockWaiting : Prop :=
  ∀ c : Config, statusWord (State.resetFor c) = 0 ∧ (State.resetFor c).queue = []
    ∧ (State.resetFor c).executing = none ∧ step (State.resetFor c) = .next (State.resetFor c)

/-- R280, R281: the reset event may be taken at any time; it abandons the executing command, empties the queue and
clears STATUS; the parameters stay (R284). What the other registers and the buffers hold then is the model's choice
(log 2, log 3, log 16), and nothing is said of it here. -/
def Obligations.ResetEventAbandonsTheCommand : Prop :=
  ∀ (s : State) (rest : List HostOp), s.host = .reset :: rest →
    ∃ t, hostMove s = .next t ∧ t.executing = none ∧ t.queue = [] ∧ statusWord t = 0 ∧ t.cfg = s.cfg
      ∧ t.host = rest ∧ hostReady s = true

/-- R27 to R30: STATUS is BUSY, PHASE and CMD_ERR in their places and 0 above them; BUSY says that the queue is
non-empty or a command executes. -/
def Obligations.StatusWordIsItsFields : Prop :=
  ∀ s : State, (statusWord s).toNat
      = (if s.queue ≠ [] ∨ s.executing ≠ none then 1 else 0) + 2 * (phaseBits s.phase).toNat
        + 16 * (if s.cmdErr then 1 else 0)
    ∧ (phaseBits s.phase).toNat ≤ 4

/-- R65, with R20 to R28, R62: reads have no side effect and return the register or word they name (CMD reads 0, R26);
which writes have side effects; and writing the same word again changes nothing. -/
def Obligations.AccessSideEffects : Prop :=
  (∀ (s t : State) (tgt : Target) (off size : Nat), hostRead s tgt off size = .next t → ∃ v, t = answer s v) ∧
  (∀ s : State, busy s = false →
    hostRead s .registers 0x00 4 = .next (answer s s.numKeys) ∧
    hostRead s .registers 0x04 4 = .next (answer s s.paddedSize) ∧
    hostRead s .registers 0x08 4 = .next (answer s s.evenPass) ∧
    hostRead s .registers 0x0C 4 = .next (answer s s.oddPass) ∧
    hostRead s .registers 0x10 4 = .next (answer s s.sortFailed) ∧
    hostRead s .registers 0x14 4 = .next (answer s 0)) ∧
  (∀ s : State, hostRead s .registers 0x18 4 = .next (answer s (statusWord s))) ∧
  (∀ (s : State) (sp : Space) (i : Nat), busy s = false → i < spaceWords s.cfg sp →
    hostRead s (.space sp) (4 * i) 4 = .next (answer s (loadWord s sp i))) ∧
  (∀ (s : State) (v : Word), s.queue.length < s.cfg.queueDepth →
    hostWrite s .registers 0x14 4 v = .next { s with queue := s.queue ++ [v] }) ∧
  (∀ (s : State) (v : Word), busy s = false →
    hostWrite s .registers 0x00 4 v = .next { s with numKeys := v, phase := .unprepared } ∧
    hostWrite s .registers 0x04 4 v = .next { s with paddedSize := v, phase := .unprepared }) ∧
  (∀ (s : State) (sp : Space) (i : Nat) (v : Word), busy s = false → i < spaceWords s.cfg sp →
    Memory.wf (memOf s sp) = true →
    ∃ t, hostWrite s (.space sp) (4 * i) 4 v = .next t ∧ t = setMem s sp (memOf t sp) ∧ loadWord t sp i = v ∧
      hostWrite t (.space sp) (4 * i) 4 v = .next t ∧
      ∀ a, a < 4 * i ∨ 4 * i + 4 ≤ a → Memory.readByte (memOf t sp) a = Memory.readByte (memOf s sp) a)

/-- R61, R106: a word the host writes to a space it reads back, and it reads every other word of every space as
before. -/
def Obligations.HostReadsBackWhatItWrote : Prop :=
  ∀ (s : State) (sp sp' : Space) (i j : Nat) (v : Word), busy s = false → s.memOk = true →
    i < spaceWords s.cfg sp → j < spaceWords s.cfg sp' →
    ∃ t, hostWrite s (.space sp) (4 * i) 4 v = .next t ∧
      hostRead t (.space sp') (4 * j) 4
        = .next (answer t (if sp' = sp ∧ j = i then v else loadWord s sp' j))

/-- R290: the host operations of the table, and only they, have no move; a READ of CMD while idle returns 0. -/
def Obligations.HostDutiesAreWhatIsRefused : Prop :=
  (∀ (s : State) (op : HostOp), dutyBroken s op = true → ∃ r, hostOp s op = .refused r) ∧
  (∀ (s : State) (op : HostOp), dutyBroken s op = false → ∃ t, hostOp s op = .next t) ∧
  (∀ s : State, busy s = false → hostRead s .registers 0x14 4 = .next (answer s 0))

/-- R106, R107: while BUSY the host can only read STATUS, queue command words, or reset, and nothing else of the block
changes; a WAIT cannot go on then, and goes on once BUSY reads 0. -/
def Obligations.BusyHostOnlyReadsStatusOrQueues : Prop :=
  (∀ s t : State, busy s = true → hostReady s = true → hostMove s = .next t →
    ∃ op rest, s.host = op :: rest ∧
      ((op = .reset ∧ t = resetEvent { s with host := rest }) ∨
       (op = opRead .status ∧ t = { s with host := rest, reads := s.reads ++ [statusWord s] }) ∨
       ∃ v, op = opWrite .cmd v ∧ s.queue.length < s.cfg.queueDepth
         ∧ t = { s with host := rest, queue := s.queue ++ [v] })) ∧
  (∀ (s : State) (rest : List HostOp), s.host = .wait :: rest →
    (busy s = true → hostReady s = false) ∧
    (busy s = false → hostReady s = true ∧
      hostMove s = .next { s with host := rest, reads := s.reads ++ [statusWord s] } ∧ (statusWord s).toNat % 2 = 0))

/-! ## The sequencer -/

/-- When the queue's head decodes to a command and the sequencer moves, the step is that command, run from the state
without the head. A draw decides between the sequencer and a host that can move (log 4). -/
def Obligations.StepRunsTheDecodedCommand : Prop :=
  ∀ (s : State) (c : Word) (rest : List Word) (i : Instr),
    s.executing = none → s.queue = c :: rest → decode c = .ok i → i.wellFormed = true →
    (hostReady s = false → step s = exec i { s with queue := rest }) ∧
    (∀ ds, hostReady s = true → s.sched = 0 :: ds → step s = exec i { s with queue := rest, sched := ds }) ∧
    (∀ ds, hostReady s = true → s.sched = 1 :: ds → step s = hostMove { s with sched := ds })

/-- The model's choice (log 8): the word withFetchWord places is the one the next step runs. -/
def Obligations.PlacedWordRunsNext : Prop :=
  ∀ (i : Instr) (s : State), step (s.withFetchWord 32 (encode i).toNat)
    = exec i { s with executing := none, queue := s.queue.tail }

/-- R225, R226, R232, R256: when each command is accepted; any other is discarded, and only CMD_ERR changes. An accepted
command is refused on illegal sizes and otherwise started, a scatter with its pass index, and run. That EVEN_PASS and
ODD_PASS + 1 are compared as naturals is the model's reading (log 21). -/
def Obligations.CommandsOutOfSequenceAreDiscarded : Prop :=
  ∀ s : State,
    (exec .zero s = if sizesLegal s then runToEnd (startZero s) else .refused .capacity) ∧
    (exec .histogram s = if phaseBits s.phase = 1
      then (if sizesLegal s then runToEnd (startHistogram s) else .refused .capacity)
      else .next { s with cmdErr := true }) ∧
    (exec .prefixScan s = if phaseBits s.phase = 2
      then (if sizesLegal s then runToEnd (startScan s) else .refused .capacity)
      else .next { s with cmdErr := true }) ∧
    (exec .scatterEven s = if phaseBits s.phase = 3 ∧ s.evenPass = s.oddPass ∧ s.evenPass.toNat ≤ 1
      then (if sizesLegal s then runToEnd (startScatter (2 * s.evenPass.toNat) s) else .refused .capacity)
      else .next { s with cmdErr := true }) ∧
    (exec .scatterOdd s = if phaseBits s.phase = 3 ∧ s.evenPass.toNat = s.oddPass.toNat + 1
      then (if sizesLegal s then runToEnd (startScatter (2 * s.oddPass.toNat + 1) s) else .refused .capacity)
      else .next { s with cmdErr := true })

/-- R256: an accepted command whose sizes break one of the four conditions is refused. -/
def Obligations.IllegalSizesAreRefused : Prop :=
  ∀ s : State,
    (s.paddedSize.toNat < s.numKeys.toNat ∨ s.cfg.cap < s.paddedSize.toNat
      ∨ s.paddedSize.toNat % s.cfg.tileS ≠ 0 ∨ spacesDisjoint s.cfg = false) →
    exec .zero s = .refused .capacity ∧
    (histogramAccepted s = true → exec .histogram s = .refused .capacity) ∧
    (prefixAccepted s = true → exec .prefixScan s = .refused .capacity) ∧
    (scatterEvenAccepted s = true → exec .scatterEven s = .refused .capacity) ∧
    (scatterOddAccepted s = true → exec .scatterOdd s = .refused .capacity)

/-- R231: PHASE changes only as the table lists, in every state that meets the invariant. To 0 it goes only by the reset
event, or by a WRITE of NUM_KEYS or PADDED_SIZE while idle, to 1 only with what ZERO clears cleared, to 4 only when
ODD_PASS becomes 2. The operation that takes it to 0 is the last one the step uses up. -/
def Obligations.PhaseChangesOnlyAsListed : Prop :=
  ∀ s t : State, s.inv = true → step s = .next t → t.phase ≠ s.phase →
    (t.phase = .unprepared ∧ ∃ before op, s.host = before ++ op :: t.host ∧
      (op = .reset ∨
        (before = [] ∧ busy s = false ∧ ∃ v, op = opWrite .numKeys v ∨ op = opWrite .paddedSize v))) ∨
    (t.phase = .zeroed ∧ t.evenPass = 0 ∧ t.oddPass = 0 ∧ t.sortFailed = 0 ∧ t.cmdErr = false) ∨
    (s.phase = .zeroed ∧ t.phase = .histogrammed) ∨
    (s.phase = .histogrammed ∧ t.phase = .scanned) ∨
    (s.phase = .scanned ∧ t.phase = .sorted ∧ t.oddPass = 2)

/-- R33: while a command executes no word leaves the queue; words are only appended, unless a reset empties it. -/
def Obligations.ExecutingCommandDequeuesNothing : Prop :=
  ∀ (s t : State) (e : Executing), s.executing = some e → dispatchMove e s = .next t →
    (∃ ws, t.queue = s.queue ++ ws) ∨ (t.queue = [] ∧ t.executing = none ∧ t.phase = .unprepared)

/-- R227: a scatter's completion adds 1 to its own counter, whether or not the pass failed, and PHASE becomes SORTED
exactly when ODD_PASS becomes 2. With no host operation pending. -/
def Obligations.ScatterCompletionCountsThePass : Prop :=
  ∀ s t : State, s.host = [] → s.executing = none →
    (scatterEvenAccepted s = true → exec .scatterEven s = .next t →
      t.evenPass = s.evenPass + 1 ∧ t.oddPass = s.oddPass ∧ t.phase = s.phase ∧ t.cmdErr = s.cmdErr) ∧
    (scatterOddAccepted s = true → exec .scatterOdd s = .next t →
      t.oddPass = s.oddPass + 1 ∧ t.evenPass = s.evenPass ∧ t.cmdErr = s.cmdErr
        ∧ t.phase = if s.oddPass = 1 then .sorted else s.phase)

/-! ## What every step keeps -/

/-- The invariant holds after reset, for every choice of the parameters. -/
def Obligations.ResetMeetsTheInvariant : Prop := ∀ c : Config, (State.resetFor c).inv = true

/-- Every step keeps the invariant: memory in canonical form and inside the spaces, at most QUEUE_DEPTH words queued,
the pass counters as R228 has them in each phase, and only a command the phase lets start executing. -/
def Obligations.EveryStepKeepsTheInvariant : Prop :=
  ∀ s t : State, s.inv = true → step s = .next t → t.inv = true

/-- R46, R284: no step changes the parameters. -/
def Obligations.ParametersNeverChange : Prop := ∀ s t : State, step s = .next t → t.cfg = s.cfg

/-- R42, R43, R94, R172, R173: a scatter's dispatch starts with its operands, one workgroup for each partition, every
workgroup in LOAD with scatter_failed 0 and 256 lanes that have done nothing; this is a shape that every move keeps
(EveryMoveKeepsTheScatterShape). -/
def Obligations.StartedScatterHasItsShape : Prop :=
  ∀ (s : State) (p : Nat), ∃ run, (startScatter p s).executing = some (.scatter run) ∧
    run.pass = p ∧ run.size = s.paddedSize.toNat ∧ run.failedOlder = [] ∧
    run.groups.length = s.paddedSize.toNat / s.cfg.tileS ∧
    (∀ w g, run.groups[w]? = some g →
      g.phase = .load ∧ g.scatterFailed = false ∧ g.lanes = List.replicate 256 (laneStart w)) ∧
    (∀ w, (laneStart w).lstate = .waiting ∧ (laneStart w).cursor = w - 1 ∧ (laneStart w).acc = 0
      ∧ (laneStart w).retries = 0 ∧ (laneStart w).older = []) ∧
    runFits s.cfg.spinBudget run = true ∧ wordsFit (startScatter p s) run = true

/-- Every move of a scatter keeps its shape: each lane stores its partition word at most once as Aggregate and then at
most once as Prefix, with the counts R178, R179 and R185 give (R72), a walking lane polls a slot before its own with its
retries within the budget (R43, R185), scatter_failed is set exactly when a lane failed or aborted (R184, R186), and only
a workgroup without such a lane reaches WRITE (R188). -/
def Obligations.EveryMoveKeepsTheScatterShape : Prop :=
  ∀ (s t : State) (run run' : ScatterRun), s.executing = some (.scatter run) → Memory.wf s.hist = true →
    runFits s.cfg.spinBudget run = true → wordsFit s run = true → dispatchMove (.scatter run) s = .next t →
    t.executing = some (.scatter run') → runFits s.cfg.spinBudget run' = true ∧ wordsFit t run' = true

/-- R200, R302: every move of an executing command makes a bound on the moves left smaller, whatever the schedule. -/
def Obligations.EveryMoveShortensTheCommand : Prop :=
  ∀ (s t : State) (e : Executing), s.executing = some e → dispatchMove e s = .next t →
    remainingMoves t < remainingMoves s

/-- R32, R200: a command that does not stop runs to its end: afterwards no command executes. -/
def Obligations.CommandsRunToTheirEnd : Prop :=
  ∀ (i : Instr) (s t : State), s.executing = none → exec i s = .next t → t.executing = none

/-- R21, R22: no command writes NUM_KEYS or PADDED_SIZE; nor the queue, the host's list or its answers. -/
def Obligations.CommandsLeaveSizesAndQueueAlone : Prop :=
  ∀ (i : Instr) (s t : State), s.host = [] → s.executing = none → exec i s = .next t →
    t.numKeys = s.numKeys ∧ t.paddedSize = s.paddedSize ∧ t.queue = s.queue ∧ t.host = s.host ∧ t.reads = s.reads

/-- R25: only ZERO clears SORT_FAILED; every other command leaves it as it is or sets it to 1, and HISTOGRAM and PREFIX
leave it. -/
def Obligations.OnlyZeroClearsSortFailed : Prop :=
  ∀ (i : Instr) (s t : State), s.host = [] → s.executing = none → exec i s = .next t → i ≠ .zero →
    t.sortFailed = s.sortFailed ∨ (t.sortFailed = 1 ∧ (i = .scatterEven ∨ i = .scatterOdd))

/-- R63, R157, R199: whatever happens in a pass, its source, the histogram rows and the sizes stay. -/
def Obligations.ScatterNeverTouchesSourceOrRows : Prop :=
  ∀ s t : State, s.host = [] → s.executing = none → s.memOk = true →
    (exec .scatterEven s = .next t →
      t.keysA = s.keysA ∧ t.payA = s.payA ∧ t.oddPass = s.oddPass
        ∧ sameOutside s t .hist 1024 (1024 + 256 * s.cfg.pMax)) ∧
    (exec .scatterOdd s = .next t →
      t.keysB = s.keysB ∧ t.payB = s.payB ∧ t.evenPass = s.evenPass
        ∧ sameOutside s t .hist 1024 (1024 + 256 * s.cfg.pMax))

/-! ## ZERO, HISTOGRAM, PREFIX -/

/-- R221: what ZERO does, in every phase and under every schedule; and that illegal sizes refuse it. -/
def Obligations.ZeroClearsHistAndInfo : Prop :=
  ∀ s : State, s.host = [] →
    (sizesLegal s = false → exec .zero s = .refused .capacity) ∧
    (sizesLegal s = true → Memory.wf s.hist = true →
      ∃ t, exec .zero s = .next t ∧
        t = { s with hist := t.hist, evenPass := 0, oddPass := 0, sortFailed := 0, cmdErr := false,
                     phase := .zeroed, executing := none } ∧
        (∀ j < 1024 + 256 * (s.paddedSize.toNat / s.cfg.tileS), loadWord t .hist j = 0) ∧
        sameOutside s t .hist 0 (1024 + 256 * (s.paddedSize.toNat / s.cfg.tileS)))

/-- R130, R133, R134, R136: what HISTOGRAM does, under every interleaving of its workgroups: padding keys become
SENTINEL, each HIST word of the rows grows by the count of its digit, everything else stays. -/
def Obligations.HistogramCountsEveryDigit : Prop :=
  ∀ s : State, s.cfg.wf = true → s.host = [] → s.executing = none → s.phase = .zeroed → sizesLegal s = true →
    s.memOk = true →
    ∃ t, exec .histogram s = .next t ∧
      t = { s with keysA := t.keysA, hist := t.hist, phase := .histogrammed, sched := t.sched, fresh := t.fresh } ∧
      (∀ i < s.paddedSize.toNat, loadWord t .keysA i = paddedKey s i) ∧
      sameOutside s t .keysA s.numKeys.toNat s.paddedSize.toNat ∧
      (∀ p < 4, ∀ d < 256, loadWord t .hist (hidx p d)
        = loadWord s .hist (hidx p d) + BitVec.ofNat 32 (countDigit (paddedKey s) p s.paddedSize.toNat d)) ∧
      sameOutside s t .hist 0 1024

/-- R135: after ZERO and HISTOGRAM each row sums to PADDED_SIZE and its bucket 255 holds at least the padding. -/
def Obligations.HistogramRowsSumToTheSize : Prop :=
  ∀ s t : State, s.cfg.wf = true → s.host = [] → s.executing = none → s.memOk = true →
    execAll [.zero, .histogram] s = .next t → ∀ p < 4,
      ((List.range 256).map fun d => (loadWord t .hist (hidx p d)).toNat).sum = s.paddedSize.toNat
        ∧ s.paddedSize.toNat - s.numKeys.toNat ≤ (loadWord t .hist (hidx p 255)).toNat

/-- R153: the Blelloch scan of 256 words gives the exclusive sums modulo 2^32. -/
def Obligations.BlellochScanGivesExclusiveSums : Prop :=
  ∀ s : List Word, s.length = 256 → blellochScan 8 s = exclusiveSums s

/-- R150: what PREFIX does, under every interleaving of its four workgroups; out of PHASE 2 it is discarded. -/
def Obligations.PrefixSumsEveryRow : Prop :=
  ∀ s : State, s.host = [] → s.executing = none →
    (s.phase ≠ .histogrammed → exec .prefixScan s = .next { s with cmdErr := true }) ∧
    (s.phase = .histogrammed → sizesLegal s = true → Memory.wf s.hist = true →
      ∃ t, exec .prefixScan s = .next t ∧
        t = { s with hist := t.hist, phase := .scanned, sched := t.sched, fresh := t.fresh } ∧
        (∀ p < 4, ∀ d < 256, loadWord t .hist (hidx p d)
          = sumWords ((List.range d).map fun e => loadWord s .hist (hidx p e))) ∧
        sameOutside s t .hist 0 1024)

/-! ## The scatter -/

/-- R183, R184: a poll that reads SORT_FAILED set aborts its lane: no slot is read, nothing is stored. A lane that has
read the newest value of SORT_FAILED, or whose dispatch has not stored to it, reads it as it is. -/
def Obligations.PollAbortsOnSortFailed : Prop :=
  ∀ (run : ScatterRun) (w d : Nat) (g : ScatterGroup) (l : Lane) (s : State),
    let f := loadCoherent s.sortFailed run.failedOlder l.seenFailed s
    (l.seenFailed = run.failedOlder.length → f.2.1 = s.sortFailed) ∧
    (f.2.1 ≠ 0 →
      let l' : Lane := { l with lstate := .aborted, seenFailed := f.1 }
      let g' : ScatterGroup := { g with lanes := g.lanes.set d l', scatterFailed := true }
      poll run w d g l s = .next { s with sched := f.2.2.sched, fresh := f.2.2.fresh,
                                          executing := some (.scatter { run with groups := run.groups.set w g' }) })

/-- R185, R186, R101: what a poll does with the word it reads while it reads SORT_FAILED as 0, whichever of the values
that R71 admits the two loads answer. A load changes nothing but the schedule's draws. -/
def Obligations.PollActsOnTheSlotItReads : Prop :=
  ∀ (run : ScatterRun) (w d : Nat) (g : ScatterGroup) (l : Lane) (s : State) (c : Word),
    let f := loadCoherent s.sortFailed run.failedOlder l.seenFailed s
    let v := loadCoherent (loadWord s .hist (pidx l.cursor d)) (slotOlder run l.cursor d) l.seenSlot f.2.2
    f.2.1 = 0 → pidx l.cursor d < spaceWords s.cfg .hist → pidx w d < spaceWords s.cfg .hist →
    let u : State := { s with sched := v.2.2.sched, fresh := v.2.2.fresh }
    let seen : Lane := { l with seenFailed := f.1, seenSlot := v.1 }
    let st := status v.2.1 run.pass
    let dispatch (g' : ScatterGroup) : Option Executing := some (.scatter { run with groups := run.groups.set w g' })
    (st = (.inclusive, c) →
      let l' : Lane :=
        { seen with lstate := .resolved, acc := l.acc + c, older := loadWord s .hist (pidx w d) :: l.older }
      let g' : ScatterGroup := { g with lanes := g.lanes.set d l', excl := g.excl.set d (l.acc + c) }
      ∃ t, poll run w d g l s = .next t ∧ t = { u with hist := t.hist, executing := dispatch g' } ∧
        (Memory.wf s.hist = true → ∀ j, loadWord t .hist j
          = if j = pidx w d then psw (preTag run.pass) (l.acc + c + arrayAt g.counts d) else loadWord s .hist j)) ∧
    (st = (.aggregate, c) → 0 < l.cursor →
      let l' : Lane := { seen with acc := l.acc + c, cursor := l.cursor - 1, retries := 0, seenSlot := 0 }
      poll run w d g l s
        = .next { u with executing := dispatch { g with lanes := g.lanes.set d l' } }) ∧
    ((st = (.aggregate, c) ∧ l.cursor = 0) ∨ st = (.invalid, c) ∨ st = (.foreign, c) →
      (l.retries < s.cfg.spinBudget →
        let l' : Lane := { seen with retries := l.retries + 1 }
        poll run w d g l s
          = .next { u with executing := dispatch { g with lanes := g.lanes.set d l' } }) ∧
      (s.cfg.spinBudget ≤ l.retries →
        let l' : Lane := { seen with lstate := .failed, retries := l.retries + 1 }
        let g' : ScatterGroup := { g with lanes := g.lanes.set d l', scatterFailed := true }
        let run' : ScatterRun :=
          { run with failedOlder := s.sortFailed :: run.failedOlder, groups := run.groups.set w g' }
        poll run w d g l s = .next { u with sortFailed := 1, executing := some (.scatter run') }))

/-- R71: a coherent load can read exactly the values of the word's coherence order that are not older than what the
agent has read: none other, and each of them under some schedule. -/
def Obligations.CoherentLoadReadsNothingOlder : Prop :=
  ∀ (cur : Word) (older : List Word) (seen : Nat) (s : State), seen ≤ older.length →
    (seen ≤ (loadCoherent cur older seen s).1 ∧
      (cur :: older)[older.length - (loadCoherent cur older seen s).1]? = some (loadCoherent cur older seen s).2.1) ∧
    (∀ n, seen ≤ n → n ≤ older.length →
      ∃ ds s', loadCoherent cur older seen { s with sched := ds ++ s.sched }
        = (n, (cur :: older).getD (older.length - n) 0, s') ∧ s' = s)

/-- R69, R172, D30: every agent that can move is picked by some schedule: every interleaving is admitted. -/
def Obligations.EveryInterleavingIsAdmitted : Prop :=
  ∀ (s : State) (e : Executing) (a : Agent), s.executing = some e → a ∈ enabledAgents s →
    ∃ ds, dispatchMove e { s with sched := ds ++ s.sched } = agentMove e a s

/-- R189, R190, R34, R67: a workgroup that writes stores its elements at their destination indices below PADDED_SIZE and
nowhere else. That an element with a destination above is not stored is the model's reading (log 12). -/
def Obligations.WriteStoresOnlyAtItsDestinations : Prop :=
  ∀ (run : ScatterRun) (w : Nat) (g : ScatterGroup) (s t : State), s.memOk = true →
    scatterWrite run w g s = .next t →
    (∀ a, (∀ o < s.cfg.tileS, dstAt g o < run.size → a < 4 * dstAt g o ∨ 4 * dstAt g o + 4 ≤ a) →
      Memory.readByte (memOf t (destKeys run.pass)) a = Memory.readByte (memOf s (destKeys run.pass)) a ∧
      Memory.readByte (memOf t (destPay run.pass)) a = Memory.readByte (memOf s (destPay run.pass)) a) ∧
    (∀ o < s.cfg.tileS, dstAt g o < run.size → (∀ o' < s.cfg.tileS, dstAt g o' = dstAt g o → o' = o) →
      loadWord t (destKeys run.pass) (dstAt g o) = arrayAt g.kv o ∧
      loadWord t (destPay run.pass) (dstAt g o) = arrayAt g.pv o) ∧
    memOf t (sourceKeys run.pass) = memOf s (sourceKeys run.pass) ∧
    memOf t (sourcePay run.pass) = memOf s (sourcePay run.pass) ∧ t.hist = s.hist ∧ t.sortFailed = s.sortFailed

/-- R194: the destination indices of a pass are a permutation of its positions. -/
def Obligations.StablePositionsAreAPermutation : Prop :=
  ∀ (key : Nat → Word) (p n : Nat), (∀ i < n, stablePos key p n i < n) ∧
    ∀ i < n, ∀ j < n, stablePos key p n i = stablePos key p n j → i = j

/-- R170, R192, R193, R199, R201: an accepted SCATTER.EVEN whose prefix row is exact and whose partition words are
Invalid ends under every schedule and every coherent choice of reads (log 4, log 6); where SORT_FAILED stays 0 it has placed every
element as the serial stable counting sort does. What PassResult.stale says of a failed pass is what R199 computes; of
the block itself a claim may rely on nothing but SORT_FAILED there (R253). -/
def Obligations.ScatterEvenPlacesEveryElement : Prop :=
  ∀ s : State, s.cfg.wf = true → s.host = [] → s.executing = none → s.inv = true → sizesLegal s = true →
    scatterEvenAccepted s = true → s.sortFailed = 0 → rowExact s (2 * s.evenPass.toNat) →
    partitionsInvalid s (2 * s.evenPass.toNat) →
    ∃ t, exec .scatterEven s = .next t ∧ PassResult s t (2 * s.evenPass.toNat) ∧
      t.evenPass = s.evenPass + 1 ∧ t.oddPass = s.oddPass ∧ t.phase = .scanned

/-- R171, R192, R193, R199, R201: the same of SCATTER.ODD. The invariant bounds the pass counters (R228). -/
def Obligations.ScatterOddPlacesEveryElement : Prop :=
  ∀ s : State, s.cfg.wf = true → s.host = [] → s.executing = none → s.inv = true → sizesLegal s = true →
    scatterOddAccepted s = true → s.sortFailed = 0 → rowExact s (2 * s.oddPass.toNat + 1) →
    partitionsInvalid s (2 * s.oddPass.toNat + 1) →
    ∃ t, exec .scatterOdd s = .next t ∧ PassResult s t (2 * s.oddPass.toNat + 1) ∧
      t.oddPass = s.oddPass + 1 ∧ t.evenPass = s.evenPass ∧
      t.phase = if s.oddPass = 1 then .sorted else .scanned

/-- R197: with one partition a pass cannot fail, whatever the schedule, the budget and the partition words. -/
def Obligations.OnePartitionPassCannotFail : Prop :=
  ∀ s : State, s.cfg.wf = true → s.host = [] → s.executing = none → s.inv = true → sizesLegal s = true →
    s.paddedSize.toNat = s.cfg.tileS →
    (scatterEvenAccepted s = true → rowExact s (2 * s.evenPass.toNat) →
      ∃ t, exec .scatterEven s = .next t ∧ t.sortFailed = s.sortFailed ∧ t.evenPass = s.evenPass + 1 ∧
        ∀ i < s.paddedSize.toNat, placedRight s t (2 * s.evenPass.toNat) i) ∧
    (scatterOddAccepted s = true → rowExact s (2 * s.oddPass.toNat + 1) →
      ∃ t, exec .scatterOdd s = .next t ∧ t.sortFailed = s.sortFailed ∧ t.oddPass = s.oddPass + 1 ∧
        ∀ i < s.paddedSize.toNat, placedRight s t (2 * s.oddPass.toNat + 1) i)

/-- R138, R202: with PADDED_SIZE = 0 HISTOGRAM and the scatters change no buffer; the scatters still count. `fresh` is
the model's own counter of free values (log 10). -/
def Obligations.CommandsOnNoElements : Prop :=
  ∀ s : State, s.host = [] → s.executing = none → s.numKeys = 0 → s.paddedSize = 0 → spacesDisjoint s.cfg = true →
    s.cfg.wf = true →
    (s.phase = .zeroed →
      exec .histogram s = .next { s with phase := .histogrammed, fresh := s.fresh + 1 }) ∧
    (s.phase = .scanned → s.evenPass = s.oddPass → s.evenPass.toNat ≤ 1 →
      exec .scatterEven s = .next { s with evenPass := s.evenPass + 1, fresh := s.fresh + 1 }) ∧
    (s.phase = .scanned → s.evenPass.toNat = s.oddPass.toNat + 1 →
      exec .scatterOdd s = .next { s with oddPass := s.oddPass + 1, fresh := s.fresh + 1,
                                          phase := if s.oddPass = 1 then .sorted else .scanned })

/-- R254: a pass of either parity that starts with SORT_FAILED set ends, whatever the rows hold; every lane of every
workgroup but the first aborts, so their partition words stay at their Aggregates, and the destination changes only to
elements of the first tile. (R253: of the block itself a claim may rely on nothing but SORT_FAILED after a failure; this
says what the rules compute. Log 11, log 12.) -/
def Obligations.FailedSortStaysFailed : Prop :=
  ∀ (s : State) (i : Instr) (p : Nat),
    (i = .scatterEven ∧ scatterEvenAccepted s = true ∧ p = 2 * s.evenPass.toNat) ∨
      (i = .scatterOdd ∧ scatterOddAccepted s = true ∧ p = 2 * s.oddPass.toNat + 1) →
    s.cfg.wf = true → s.host = [] → s.executing = none → s.inv = true → sizesLegal s = true → s.sortFailed ≠ 0 →
    ∃ t, exec i s = .next t ∧ t.sortFailed = s.sortFailed ∧
      (∀ w < scatterGrid s.cfg s.paddedSize.toNat, 0 < w → ∀ d < 256,
        loadWord t .hist (pidx w d)
          = psw (aggTag p) (digitCount ((scatterTile s.cfg w).map (sourceKey s p)) p d)) ∧
      ∀ j, (loadWord t (destKeys p) j = loadWord s (destKeys p) j
          ∧ loadWord t (destPay p) j = loadWord s (destPay p) j) ∨
        ∃ o < s.cfg.tileS, loadWord t (destKeys p) j = loadWord s (sourceKeys p) o
          ∧ loadWord t (destPay p) j = loadWord s (sourcePay p) o

/-! ## The sort -/

/-- R196, R229: a SORT that ends with SORT_FAILED = 0 leaves in A the stable ascending sort of the input, payloads with
their keys, whatever the schedule was. -/
def Obligations.SuccessfulSortSortsStably : Prop :=
  ∀ s t : State, s.cfg.wf = true → s.host = [] → s.executing = none → s.memOk = true → sizesLegal s = true →
    execAll sortCommands s = .next t → t.sortFailed = 0 →
    elementsA t s.paddedSize.toNat = stableSort (sortInput s) ∧ t.phase = .sorted ∧ t.cmdErr = false
      ∧ t.evenPass = 2 ∧ t.oddPass = 2 ∧ statusWord { t with queue := [] } = 0x00000008

/-- R197, R229: with one partition a SORT ends, never fails and sorts, from every state with legal sizes. -/
def Obligations.OnePartitionSortSucceeds : Prop :=
  ∀ s : State, s.cfg.wf = true → s.host = [] → s.executing = none → s.memOk = true → sizesLegal s = true →
    s.paddedSize.toNat = s.cfg.tileS →
    ∃ t, execAll sortCommands s = .next t ∧ t.sortFailed = 0 ∧ t.phase = .sorted ∧
      elementsA t s.paddedSize.toNat = stableSort (sortInput s)

/-! ## Who can move, and that a scatter ends -/

/-- R69, R172, R182, R188, R225: the agents that can move while a command executes: a digit lane exactly while it has
still to publish or is walking; a scatter workgroup as a whole in LOAD, in WRITE and at its two barriers, once all its
lanes have reached them; a histogram or prefix workgroup until it is DONE; the sequencer once every workgroup is
terminal; the host when its next operation can go on. -/
def Obligations.AgentsThatCanMove : Prop :=
  (∀ (s : State) (run : ScatterRun), s.executing = some (.scatter run) →
    (∀ w d, Agent.lane w d ∈ enabledAgents s ↔ ∃ g l, run.groups[w]? = some g ∧ g.lanes[d]? = some l ∧
      ((g.phase = .lookback ∧ l.lstate = .walking) ∨
        (g.phase = .publish ∧ (l.lstate = .waiting ∨ l.lstate = .based)))) ∧
    (∀ w, Agent.group w ∈ enabledAgents s ↔ ∃ g, run.groups[w]? = some g ∧
      (g.phase = .load ∨ g.phase = .write ∨
        (g.phase = .publish ∧ ∀ l ∈ g.lanes, l.lstate ≠ .waiting ∧ l.lstate ≠ .based) ∨
        (g.phase = .lookback ∧ ∀ l ∈ g.lanes, l.lstate ≠ .walking))) ∧
    (Agent.sequencer ∈ enabledAgents s ↔ ∀ g ∈ run.groups, g.phase = .done ∨ g.phase = .failed)) ∧
  (∀ (s : State) (run : HistRun), s.executing = some (.histogram run) →
    (∀ w, Agent.group w ∈ enabledAgents s ↔ ∃ g, run.groups[w]? = some g ∧ g.phase ≠ .done) ∧
    (∀ w d, Agent.lane w d ∉ enabledAgents s) ∧
    (Agent.sequencer ∈ enabledAgents s ↔ ∀ g ∈ run.groups, g.phase = .done)) ∧
  (∀ (s : State) (groups : List ScanGroup), s.executing = some (.scan groups) →
    (∀ w, Agent.group w ∈ enabledAgents s ↔ ∃ g, groups[w]? = some g ∧ g.phase ≠ .done) ∧
    (∀ w d, Agent.lane w d ∉ enabledAgents s) ∧
    (Agent.sequencer ∈ enabledAgents s ↔ ∀ g ∈ groups, g.phase = .done)) ∧
  ∀ s : State, Agent.host ∈ enabledAgents s ↔ hostReady s = true

/-- R34, R67, R200, R227, R254: an accepted scatter with legal sizes always ends with its pass counted, whatever the rows,
the partition words, SORT_FAILED and the data are and under every schedule, and it changes the destination below
PADDED_SIZE and HIST in the partition words of its workgroups only. -/
def Obligations.AcceptedScatterEndsInItsBounds : Prop :=
  ∀ (s : State) (i : Instr) (p : Nat),
    (i = .scatterEven ∧ scatterEvenAccepted s = true ∧ p = 2 * s.evenPass.toNat) ∨
      (i = .scatterOdd ∧ scatterOddAccepted s = true ∧ p = 2 * s.oddPass.toNat + 1) →
    s.host = [] → s.executing = none → s.inv = true → sizesLegal s = true →
    ∃ t, exec i s = .next t ∧ t.executing = none ∧
      t.evenPass = (if i = .scatterEven then s.evenPass + 1 else s.evenPass) ∧
      t.oddPass = (if i = .scatterOdd then s.oddPass + 1 else s.oddPass) ∧
      sameOutside s t (destKeys p) 0 s.paddedSize.toNat ∧ sameOutside s t (destPay p) 0 s.paddedSize.toNat ∧
      sameOutside s t .hist 1024 (sortHistWords s.cfg s.paddedSize.toNat)
end

