-- ==== Sys2Proof/Laws/Memory.lean ====
section
/-! SUPPORT. The laws of one space's memory: the canonical form is kept by every write, a read after a write gives what
was written and nothing else changes, and canonical memories that read alike are equal. -/

namespace Sys2Proof.Machine

/-! ## The canonical form -/

/-- Every listed offset is above a. -/
def Memory.above (m : Memory) (a : Nat) : Prop := ∀ c ∈ m, a < c.1

@[simp] theorem Memory.wf_nil : Memory.wf [] = true := rfl

theorem Memory.risesFrom_iff (n : Nat) (m : Memory) :
    Memory.risesFrom n m = true ↔ (∀ c ∈ m, n ≤ c.1) ∧ Memory.wf m = true := by
  induction m generalizing n with
  | nil => simp [Memory.risesFrom]
  | cons c rest ih =>
    obtain ⟨a, x⟩ := c
    simp only [Memory.wf, Memory.risesFrom, Bool.and_eq_true, ih (a + 1), decide_eq_true_eq, List.mem_cons,
      forall_eq_or_imp]
    constructor
    · rintro ⟨⟨h1, h2⟩, h3, h4⟩
      exact ⟨⟨h1, fun c hc => by have := h3 c hc; omega⟩, ⟨by omega, h2⟩, h3, h4⟩
    · rintro ⟨⟨h1, _⟩, ⟨_, h2⟩, h3, h4⟩
      exact ⟨⟨h1, h2⟩, h3, h4⟩

@[simp] theorem Memory.wf_cons (a : Nat) (x : Byte) (m : Memory) :
    Memory.wf ((a, x) :: m) = true ↔ x ≠ unlistedByte ∧ Memory.above m a ∧ Memory.wf m = true := by
  rw [Memory.wf, Memory.risesFrom, Bool.and_eq_true, Bool.and_eq_true, Memory.risesFrom_iff]
  simp [Memory.above]

@[simp] theorem Memory.above_nil (a : Nat) : Memory.above [] a := by simp [Memory.above]

@[simp] theorem Memory.above_cons (a b : Nat) (x : Byte) (m : Memory) :
    Memory.above ((b, x) :: m) a ↔ a < b ∧ Memory.above m a := by
  simp [Memory.above]

theorem Memory.above_mono {m : Memory} {a b : Nat} (h : Memory.above m b) (hab : a ≤ b) : Memory.above m a :=
  fun c hc => lt_of_le_of_lt hab (h c hc)

theorem Memory.above_writeByte {m : Memory} {a b : Nat} {v : Byte} (h : Memory.above m a) (hab : a < b) :
    Memory.above (Memory.writeByte m b v) a := by
  induction m with
  | nil => by_cases hv : v = unlistedByte <;> simp [Memory.writeByte, hv, hab]
  | cons c rest ih =>
    obtain ⟨k, x⟩ := c
    obtain ⟨h1, h2⟩ := (Memory.above_cons _ _ _ _).1 h
    simp only [Memory.writeByte]
    split
    · split <;> simp [h1, h2, hab]
    · split
      · split <;> simp [h2, hab]
      · simp [h1, ih h2]

/-- A byte write keeps the canonical form. -/
theorem Memory.wf_writeByte {m : Memory} (h : Memory.wf m = true) (a : Nat) (v : Byte) :
    Memory.wf (Memory.writeByte m a v) = true := by
  induction m with
  | nil => by_cases hv : v = unlistedByte <;> simp [Memory.writeByte, hv]
  | cons c rest ih =>
    obtain ⟨k, x⟩ := c
    obtain ⟨hx, hk, hr⟩ := (Memory.wf_cons _ _ _).1 h
    simp only [Memory.writeByte]
    split
    · rename_i hak
      split
      · exact h
      · rename_i hv
        simp [hv, hx, hk, hr, hak, Memory.above_mono hk (le_of_lt hak)]
    · rename_i hak
      split
      · rename_i he
        subst he
        split
        · exact hr
        · rename_i hv
          simp [hv, hk, hr]
      · rename_i hne
        have : k < a := by omega
        simp [hx, ih hr, Memory.above_writeByte hk this]

/-! ## Reads of bytes -/

theorem Memory.readByte_of_above {m : Memory} {a : Nat} (h : Memory.above m a) :
    Memory.readByte m a = unlistedByte := by
  cases m with
  | nil => rfl
  | cons c rest =>
    obtain ⟨k, x⟩ := c
    simp [Memory.readByte, ((Memory.above_cons _ _ _ _).1 h).1]

/-- A byte read where a byte was written gives it. -/
theorem Memory.readByte_writeByte_same {m : Memory} (h : Memory.wf m = true) (a : Nat) (v : Byte) :
    Memory.readByte (Memory.writeByte m a v) a = v := by
  induction m with
  | nil => by_cases hv : v = unlistedByte <;> simp [Memory.writeByte, hv, Memory.readByte]
  | cons c rest ih =>
    obtain ⟨k, x⟩ := c
    obtain ⟨_, hk, hr⟩ := (Memory.wf_cons _ _ _).1 h
    simp only [Memory.writeByte]
    split
    · rename_i hak
      split
      · rename_i hv
        simp [Memory.readByte, hak, hv]
      · simp [Memory.readByte]
    · rename_i hak
      split
      · rename_i he
        subst he
        split
        · rename_i hv
          rw [Memory.readByte_of_above hk, hv]
        · simp [Memory.readByte]
      · rename_i hne
        simp [Memory.readByte, hak, hne, ih hr]

/-- A byte write leaves every other byte alone. -/
theorem Memory.readByte_writeByte_other {m : Memory} (h : Memory.wf m = true) {a b : Nat} (hab : b ≠ a) (v : Byte) :
    Memory.readByte (Memory.writeByte m a v) b = Memory.readByte m b := by
  induction m with
  | nil =>
    by_cases hv : v = unlistedByte
    · simp [Memory.writeByte, hv]
    · simp [Memory.writeByte, hv, Memory.readByte, hab]
  | cons c rest ih =>
    obtain ⟨k, x⟩ := c
    obtain ⟨_, hk, hr⟩ := (Memory.wf_cons _ _ _).1 h
    simp only [Memory.writeByte]
    split
    · rename_i hak
      split
      · rfl
      · by_cases hba : b < a
        · have : b < k := by omega
          simp [Memory.readByte, hba, this]
        · simp [Memory.readByte, hba, hab]
    · rename_i hak
      split
      · rename_i he
        subst he
        split
        · by_cases hba : b < a
          · rw [Memory.readByte_of_above (Memory.above_mono hk (le_of_lt hba))]
            simp [Memory.readByte, hba]
          · simp [Memory.readByte, hba, hab]
        · by_cases hba : b < a <;> simp [Memory.readByte, hba, hab]
      · simp only [Memory.readByte]
        split
        · rfl
        · split
          · rfl
          · exact ih hr

theorem Memory.readByte_writeByte {m : Memory} (h : Memory.wf m = true) (a b : Nat) (v : Byte) :
    Memory.readByte (Memory.writeByte m a v) b = if b = a then v else Memory.readByte m b := by
  split
  · rename_i he
    subst he
    exact Memory.readByte_writeByte_same h _ _
  · rename_i hne
    exact Memory.readByte_writeByte_other h hne v

/-- Canonical memories that read alike are equal. -/
theorem Memory.ext_of_wf {m n : Memory} (hm : Memory.wf m = true) (hn : Memory.wf n = true)
    (h : ∀ a, Memory.readByte m a = Memory.readByte n a) : m = n := by
  induction m generalizing n with
  | nil =>
    cases n with
    | nil => rfl
    | cons c rest =>
      obtain ⟨k, x⟩ := c
      have := h k
      simp [Memory.readByte] at this
      exact absurd this.symm ((Memory.wf_cons _ _ _).1 hn).1
  | cons c rest ih =>
    obtain ⟨k, x⟩ := c
    obtain ⟨hx, hk, hr⟩ := (Memory.wf_cons _ _ _).1 hm
    cases n with
    | nil =>
      have := h k
      simp [Memory.readByte] at this
      exact absurd this hx
    | cons c' rest' =>
      obtain ⟨k', x'⟩ := c'
      obtain ⟨hx', hk', hr'⟩ := (Memory.wf_cons _ _ _).1 hn
      have hkk : k = k' := by
        rcases Nat.lt_trichotomy k k' with hlt | heq | hgt
        · have := h k
          simp [Memory.readByte, hlt] at this
          exact absurd this hx
        · exact heq
        · have := h k'
          simp [Memory.readByte, hgt] at this
          exact absurd this.symm hx'
      subst hkk
      have hxx : x = x' := by simpa [Memory.readByte] using h k
      subst hxx
      have : rest = rest' := by
        refine ih hr hr' fun a => ?_
        have ha := h a
        rcases Nat.lt_trichotomy a k with hlt | heq | hgt
        · rw [Memory.readByte_of_above (Memory.above_mono hk (le_of_lt hlt)),
            Memory.readByte_of_above (Memory.above_mono hk' (le_of_lt hlt))]
        · subst heq
          rw [Memory.readByte_of_above hk, Memory.readByte_of_above hk']
        · have h1 : ¬ a < k := by omega
          have h2 : ¬ a = k := by omega
          simpa [Memory.readByte, h1, h2] using ha
      rw [this]

/-! ## Words -/

theorem Memory.readByte_fromWord (m : Memory) {i a : Nat} (h : 4 * i ≤ a) :
    Memory.readByte (Memory.fromWord m i) a = Memory.readByte m a := by
  induction m with
  | nil => rfl
  | cons c rest ih =>
    obtain ⟨k, x⟩ := c
    by_cases hk : k < 4 * i
    · have h1 : ¬ a < k := by omega
      have h2 : ¬ a = k := by omega
      simpa [Memory.fromWord, List.dropWhile_cons, hk, Memory.readByte, h1, h2] using ih
    · simp [Memory.fromWord, hk]

/-- A word read is its four bytes, whatever the list looks like. -/
theorem Memory.readWord_eq (m : Memory) (i : Nat) :
    Memory.readWord m i = wordOfBytes (Memory.readByte m (4 * i)) (Memory.readByte m (4 * i + 1))
      (Memory.readByte m (4 * i + 2)) (Memory.readByte m (4 * i + 3)) := by
  simp only [Memory.readWord]
  rw [Memory.readByte_fromWord m (by omega), Memory.readByte_fromWord m (by omega),
    Memory.readByte_fromWord m (by omega), Memory.readByte_fromWord m (by omega)]

theorem Memory.writeByte_append {pre m : Memory} {a n : Nat} (hp : ∀ c ∈ pre, c.1 < n) (h : n ≤ a) (v : Byte) :
    Memory.writeByte (pre ++ m) a v = pre ++ Memory.writeByte m a v := by
  induction pre with
  | nil => rfl
  | cons c rest ih =>
    obtain ⟨k, x⟩ := c
    have hk : k < n := hp (k, x) (by simp)
    have h1 : ¬ a < k := by omega
    have h2 : ¬ a = k := by omega
    simp only [List.cons_append, Memory.writeByte, h1, h2, if_false]
    rw [ih (fun c hc => hp c (by simp [hc]))]

/-- A word write is its four byte writes, whatever the list looks like. -/
theorem Memory.writeWord_eq (m : Memory) (i : Nat) (v : Word) :
    Memory.writeWord m i v = Memory.writeBytes m (4 * i) v := by
  have hp : ∀ c ∈ m.takeWhile (fun c => decide (c.1 < 4 * i)), c.1 < 4 * i := fun c hc => by
    have := List.all_takeWhile (p := fun c : Host.Cell => decide (c.1 < 4 * i)) (l := m)
    simpa using List.all_eq_true.1 this c hc
  have hm : m = m.takeWhile (fun c => decide (c.1 < 4 * i)) ++ Memory.fromWord m i := by
    simp [Memory.fromWord]
  conv_rhs => rw [hm]
  simp only [Memory.writeWord, Memory.writeBytes]
  rw [Memory.writeByte_append hp (by omega), Memory.writeByte_append hp (by omega),
    Memory.writeByte_append hp (by omega), Memory.writeByte_append hp (by omega)]

/-- A word write keeps the canonical form. -/
theorem Memory.wf_writeWord {m : Memory} (h : Memory.wf m = true) (i : Nat) (v : Word) :
    Memory.wf (Memory.writeWord m i v) = true := by
  rw [Memory.writeWord_eq]
  exact Memory.wf_writeByte (Memory.wf_writeByte (Memory.wf_writeByte (Memory.wf_writeByte h _ _) _ _) _ _) _ _

/-- A run of word writes keeps the canonical form. -/
theorem Memory.wf_writeWords {m : Memory} (h : Memory.wf m = true) (ws : List (Nat × Word)) :
    Memory.wf (Memory.writeWords m ws) = true := by
  induction ws generalizing m with
  | nil => exact h
  | cons w rest ih => exact ih (Memory.wf_writeWord h _ _)

/-- What a byte reads as after a word write. -/
theorem Memory.readByte_writeWord {m : Memory} (h : Memory.wf m = true) (i : Nat) (v : Word) (a : Nat) :
    Memory.readByte (Memory.writeWord m i v) a
      = if a = 4 * i + 3 then byteOfWord v 3 else if a = 4 * i + 2 then byteOfWord v 2
        else if a = 4 * i + 1 then byteOfWord v 1 else if a = 4 * i then byteOfWord v 0
        else Memory.readByte m a := by
  have h0 := Memory.wf_writeByte h (4 * i) (byteOfWord v 0)
  have h1 := Memory.wf_writeByte h0 (4 * i + 1) (byteOfWord v 1)
  have h2 := Memory.wf_writeByte h1 (4 * i + 2) (byteOfWord v 2)
  rw [Memory.writeWord_eq, Memory.writeBytes, Memory.readByte_writeByte h2, Memory.readByte_writeByte h1,
    Memory.readByte_writeByte h0, Memory.readByte_writeByte h]

theorem wordOfBytes_byteOfWord (v : Word) :
    wordOfBytes (byteOfWord v 0) (byteOfWord v 1) (byteOfWord v 2) (byteOfWord v 3) = v := by
  apply BitVec.eq_of_getLsbD_eq
  intro k hk
  simp only [wordOfBytes, byteOfWord, BitVec.getLsbD_append, BitVec.getLsbD_extractLsb']
  rcases (by omega : k < 8 ∨ (8 ≤ k ∧ k < 16) ∨ (16 ≤ k ∧ k < 24) ∨ 24 ≤ k) with h | h | h | h
  · simp [h]
  · obtain ⟨h, h'⟩ := h
    have e1 : ¬ k < 8 := by omega
    have e2 : k - 8 < 8 := by omega
    have e3 : 8 + (k - 8) = k := by omega
    simp [e1, e2, e3]
  · obtain ⟨h, h'⟩ := h
    have e1 : ¬ k < 8 := by omega
    have e2 : ¬ k - 8 < 8 := by omega
    have e3 : k - 8 - 8 < 8 := by omega
    have e4 : 16 + (k - 8 - 8) = k := by omega
    simp [e1, e2, e3, e4]
  · have e1 : ¬ k < 8 := by omega
    have e2 : ¬ k - 8 < 8 := by omega
    have e3 : ¬ k - 8 - 8 < 8 := by omega
    have e4 : k - 8 - 8 - 8 < 8 := by omega
    have e5 : 24 + (k - 8 - 8 - 8) = k := by omega
    simp [e1, e2, e3, e4, e5]

/-- A byte outside a written word reads as before. -/
theorem Memory.readByte_writeWord_other {m : Memory} (h : Memory.wf m = true) {i a : Nat} (v : Word)
    (ha : a < 4 * i ∨ 4 * i + 4 ≤ a) : Memory.readByte (Memory.writeWord m i v) a = Memory.readByte m a := by
  rw [Memory.readByte_writeWord h]
  rw [if_neg (by omega), if_neg (by omega), if_neg (by omega), if_neg (by omega)]

/-- A word read where a word was written gives it. -/
theorem Memory.readWord_writeWord_same {m : Memory} (h : Memory.wf m = true) (i : Nat) (v : Word) :
    Memory.readWord (Memory.writeWord m i v) i = v := by
  rw [Memory.readWord_eq]
  simp only [Memory.readByte_writeWord h]
  simpa using wordOfBytes_byteOfWord v

/-- A word write leaves every other word alone. -/
theorem Memory.readWord_writeWord_other {m : Memory} (h : Memory.wf m = true) {i j : Nat} (hij : j ≠ i) (v : Word) :
    Memory.readWord (Memory.writeWord m i v) j = Memory.readWord m j := by
  rw [Memory.readWord_eq, Memory.readWord_eq, Memory.readByte_writeWord_other h v (by omega),
    Memory.readByte_writeWord_other h v (by omega), Memory.readByte_writeWord_other h v (by omega),
    Memory.readByte_writeWord_other h v (by omega)]

/-- What a word reads as after a word write. -/
theorem Memory.readWord_writeWord {m : Memory} (h : Memory.wf m = true) (i j : Nat) (v : Word) :
    Memory.readWord (Memory.writeWord m i v) j = if j = i then v else Memory.readWord m j := by
  split
  · rename_i he
    rw [he, Memory.readWord_writeWord_same h]
  · rename_i hne
    rw [Memory.readWord_writeWord_other h hne]

/-- A word read after a run of writes that miss it. -/
theorem Memory.readWord_writeWords_other {m : Memory} (h : Memory.wf m = true) {ws : List (Nat × Word)} {j : Nat}
    (hj : ∀ w ∈ ws, w.1 ≠ j) : Memory.readWord (Memory.writeWords m ws) j = Memory.readWord m j := by
  induction ws generalizing m with
  | nil => rfl
  | cons w rest ih =>
    rw [Memory.writeWords, ih (Memory.wf_writeWord h _ _) (fun x hx => hj x (by simp [hx])),
      Memory.readWord_writeWord_other h (hj w (by simp)).symm]

/-- A byte read after a run of writes that miss its word. -/
theorem Memory.readByte_writeWords_other {m : Memory} (h : Memory.wf m = true) {ws : List (Nat × Word)} {a : Nat}
    (ha : ∀ w ∈ ws, a < 4 * w.1 ∨ 4 * w.1 + 4 ≤ a) :
    Memory.readByte (Memory.writeWords m ws) a = Memory.readByte m a := by
  induction ws generalizing m with
  | nil => rfl
  | cons w rest ih =>
    have hw := ha w (by simp)
    rw [Memory.writeWords, ih (Memory.wf_writeWord h _ _) (fun x hx => ha x (by simp [hx])),
      Memory.readByte_writeWord_other h _ hw]

/-! ## Staying inside a space -/

theorem Memory.within_nil (n : Nat) : Memory.within [] n = true := rfl

theorem Memory.within_iff (m : Memory) (n : Nat) : Memory.within m n = true ↔ ∀ c ∈ m, c.1 < 4 * n := by
  simp [Memory.within]

theorem Memory.mem_writeByte {m : Memory} {a : Nat} {v : Byte} {c : Host.Cell}
    (h : c ∈ Memory.writeByte m a v) : c ∈ m ∨ c.1 = a := by
  induction m with
  | nil =>
    by_cases hv : v = unlistedByte <;> simp [Memory.writeByte, hv] at h
    simp [h]
  | cons d rest ih =>
    obtain ⟨k, x⟩ := d
    simp only [Memory.writeByte] at h
    split at h
    · split at h
      · exact .inl h
      · rcases List.mem_cons.1 h with rfl | h
        · exact .inr rfl
        · exact .inl h
    · split at h
      · split at h
        · exact .inl (by simp [h])
        · rcases List.mem_cons.1 h with rfl | h
          · exact .inr rfl
          · exact .inl (by simp [h])
      · rcases List.mem_cons.1 h with rfl | h
        · exact .inl (by simp)
        · rcases ih h with h | h
          · exact .inl (by simp [h])
          · exact .inr h

/-- A word write inside a space keeps its contents inside. -/
theorem Memory.within_writeWord {m : Memory} {n i : Nat} (h : Memory.within m n = true) (hi : i < n) (v : Word) :
    Memory.within (Memory.writeWord m i v) n = true := by
  rw [Memory.within_iff] at *
  intro c hc
  rw [Memory.writeWord_eq] at hc
  rcases Memory.mem_writeByte hc with hc | hc
  · rcases Memory.mem_writeByte hc with hc | hc
    · rcases Memory.mem_writeByte hc with hc | hc
      · rcases Memory.mem_writeByte hc with hc | hc
        · exact h c hc
        · omega
      · omega
    · omega
  · omega

/-- A run of word writes inside a space keeps its contents inside. -/
theorem Memory.within_writeWords {m : Memory} {n : Nat} {ws : List (Nat × Word)} (h : Memory.within m n = true)
    (hw : ∀ w ∈ ws, w.1 < n) : Memory.within (Memory.writeWords m ws) n = true := by
  induction ws generalizing m with
  | nil => exact h
  | cons w rest ih =>
    exact ih (Memory.within_writeWord h (hw w (by simp)) _) (fun x hx => hw x (by simp [hx]))

end Sys2Proof.Machine
end

