-- ==== Sys2Proof/Laws/State.lean ====
section
/-! SUPPORT. The small lemmas of the state's updates, one per field per update, so that no proof unfolds a record
update; and the laws of the spaces. -/

namespace Sys2Proof.Machine

/-! ## discard -/

@[simp] theorem discard_cfg (s : State) : (discard s).cfg = s.cfg := rfl
@[simp] theorem discard_numKeys (s : State) : (discard s).numKeys = s.numKeys := rfl
@[simp] theorem discard_paddedSize (s : State) : (discard s).paddedSize = s.paddedSize := rfl
@[simp] theorem discard_evenPass (s : State) : (discard s).evenPass = s.evenPass := rfl
@[simp] theorem discard_oddPass (s : State) : (discard s).oddPass = s.oddPass := rfl
@[simp] theorem discard_sortFailed (s : State) : (discard s).sortFailed = s.sortFailed := rfl
@[simp] theorem discard_phase (s : State) : (discard s).phase = s.phase := rfl
@[simp] theorem discard_cmdErr (s : State) : (discard s).cmdErr = true := rfl
@[simp] theorem discard_queue (s : State) : (discard s).queue = s.queue := rfl
@[simp] theorem discard_executing (s : State) : (discard s).executing = s.executing := rfl
@[simp] theorem discard_keysA (s : State) : (discard s).keysA = s.keysA := rfl
@[simp] theorem discard_keysB (s : State) : (discard s).keysB = s.keysB := rfl
@[simp] theorem discard_payA (s : State) : (discard s).payA = s.payA := rfl
@[simp] theorem discard_payB (s : State) : (discard s).payB = s.payB := rfl
@[simp] theorem discard_hist (s : State) : (discard s).hist = s.hist := rfl
@[simp] theorem discard_host (s : State) : (discard s).host = s.host := rfl
@[simp] theorem discard_reads (s : State) : (discard s).reads = s.reads := rfl
@[simp] theorem discard_sched (s : State) : (discard s).sched = s.sched := rfl
@[simp] theorem discard_fresh (s : State) : (discard s).fresh = s.fresh := rfl

/-! ## setSortFailed -/

@[simp] theorem setSortFailed_cfg (s : State) : (setSortFailed s).cfg = s.cfg := rfl
@[simp] theorem setSortFailed_numKeys (s : State) : (setSortFailed s).numKeys = s.numKeys := rfl
@[simp] theorem setSortFailed_paddedSize (s : State) : (setSortFailed s).paddedSize = s.paddedSize := rfl
@[simp] theorem setSortFailed_evenPass (s : State) : (setSortFailed s).evenPass = s.evenPass := rfl
@[simp] theorem setSortFailed_oddPass (s : State) : (setSortFailed s).oddPass = s.oddPass := rfl
@[simp] theorem setSortFailed_sortFailed (s : State) : (setSortFailed s).sortFailed = 1 := rfl
@[simp] theorem setSortFailed_phase (s : State) : (setSortFailed s).phase = s.phase := rfl
@[simp] theorem setSortFailed_cmdErr (s : State) : (setSortFailed s).cmdErr = s.cmdErr := rfl
@[simp] theorem setSortFailed_queue (s : State) : (setSortFailed s).queue = s.queue := rfl
@[simp] theorem setSortFailed_executing (s : State) : (setSortFailed s).executing = s.executing := rfl
@[simp] theorem setSortFailed_keysA (s : State) : (setSortFailed s).keysA = s.keysA := rfl
@[simp] theorem setSortFailed_keysB (s : State) : (setSortFailed s).keysB = s.keysB := rfl
@[simp] theorem setSortFailed_payA (s : State) : (setSortFailed s).payA = s.payA := rfl
@[simp] theorem setSortFailed_payB (s : State) : (setSortFailed s).payB = s.payB := rfl
@[simp] theorem setSortFailed_hist (s : State) : (setSortFailed s).hist = s.hist := rfl
@[simp] theorem setSortFailed_host (s : State) : (setSortFailed s).host = s.host := rfl
@[simp] theorem setSortFailed_reads (s : State) : (setSortFailed s).reads = s.reads := rfl
@[simp] theorem setSortFailed_sched (s : State) : (setSortFailed s).sched = s.sched := rfl
@[simp] theorem setSortFailed_fresh (s : State) : (setSortFailed s).fresh = s.fresh := rfl

/-! ## setScatter -/

@[simp] theorem setScatter_cfg (s : State) (run : ScatterRun) : (setScatter s run).cfg = s.cfg := rfl
@[simp] theorem setScatter_numKeys (s : State) (run : ScatterRun) : (setScatter s run).numKeys = s.numKeys := rfl
@[simp] theorem setScatter_paddedSize (s : State) (run : ScatterRun) : (setScatter s run).paddedSize = s.paddedSize := rfl
@[simp] theorem setScatter_evenPass (s : State) (run : ScatterRun) : (setScatter s run).evenPass = s.evenPass := rfl
@[simp] theorem setScatter_oddPass (s : State) (run : ScatterRun) : (setScatter s run).oddPass = s.oddPass := rfl
@[simp] theorem setScatter_sortFailed (s : State) (run : ScatterRun) : (setScatter s run).sortFailed = s.sortFailed := rfl
@[simp] theorem setScatter_phase (s : State) (run : ScatterRun) : (setScatter s run).phase = s.phase := rfl
@[simp] theorem setScatter_cmdErr (s : State) (run : ScatterRun) : (setScatter s run).cmdErr = s.cmdErr := rfl
@[simp] theorem setScatter_queue (s : State) (run : ScatterRun) : (setScatter s run).queue = s.queue := rfl
@[simp] theorem setScatter_executing (s : State) (run : ScatterRun) : (setScatter s run).executing = some (.scatter run) := rfl
@[simp] theorem setScatter_keysA (s : State) (run : ScatterRun) : (setScatter s run).keysA = s.keysA := rfl
@[simp] theorem setScatter_keysB (s : State) (run : ScatterRun) : (setScatter s run).keysB = s.keysB := rfl
@[simp] theorem setScatter_payA (s : State) (run : ScatterRun) : (setScatter s run).payA = s.payA := rfl
@[simp] theorem setScatter_payB (s : State) (run : ScatterRun) : (setScatter s run).payB = s.payB := rfl
@[simp] theorem setScatter_hist (s : State) (run : ScatterRun) : (setScatter s run).hist = s.hist := rfl
@[simp] theorem setScatter_host (s : State) (run : ScatterRun) : (setScatter s run).host = s.host := rfl
@[simp] theorem setScatter_reads (s : State) (run : ScatterRun) : (setScatter s run).reads = s.reads := rfl
@[simp] theorem setScatter_sched (s : State) (run : ScatterRun) : (setScatter s run).sched = s.sched := rfl
@[simp] theorem setScatter_fresh (s : State) (run : ScatterRun) : (setScatter s run).fresh = s.fresh := rfl

/-! ## setHistGroup -/

@[simp] theorem setHistGroup_cfg (s : State) (run : HistRun) (w : Nat) (g : HistGroup) : (setHistGroup s run w g).cfg = s.cfg := rfl
@[simp] theorem setHistGroup_numKeys (s : State) (run : HistRun) (w : Nat) (g : HistGroup) : (setHistGroup s run w g).numKeys = s.numKeys := rfl
@[simp] theorem setHistGroup_paddedSize (s : State) (run : HistRun) (w : Nat) (g : HistGroup) : (setHistGroup s run w g).paddedSize = s.paddedSize := rfl
@[simp] theorem setHistGroup_evenPass (s : State) (run : HistRun) (w : Nat) (g : HistGroup) : (setHistGroup s run w g).evenPass = s.evenPass := rfl
@[simp] theorem setHistGroup_oddPass (s : State) (run : HistRun) (w : Nat) (g : HistGroup) : (setHistGroup s run w g).oddPass = s.oddPass := rfl
@[simp] theorem setHistGroup_sortFailed (s : State) (run : HistRun) (w : Nat) (g : HistGroup) : (setHistGroup s run w g).sortFailed = s.sortFailed := rfl
@[simp] theorem setHistGroup_phase (s : State) (run : HistRun) (w : Nat) (g : HistGroup) : (setHistGroup s run w g).phase = s.phase := rfl
@[simp] theorem setHistGroup_cmdErr (s : State) (run : HistRun) (w : Nat) (g : HistGroup) : (setHistGroup s run w g).cmdErr = s.cmdErr := rfl
@[simp] theorem setHistGroup_queue (s : State) (run : HistRun) (w : Nat) (g : HistGroup) : (setHistGroup s run w g).queue = s.queue := rfl
@[simp] theorem setHistGroup_executing (s : State) (run : HistRun) (w : Nat) (g : HistGroup) : (setHistGroup s run w g).executing = some (.histogram { run with groups := run.groups.set w g }) := rfl
@[simp] theorem setHistGroup_keysA (s : State) (run : HistRun) (w : Nat) (g : HistGroup) : (setHistGroup s run w g).keysA = s.keysA := rfl
@[simp] theorem setHistGroup_keysB (s : State) (run : HistRun) (w : Nat) (g : HistGroup) : (setHistGroup s run w g).keysB = s.keysB := rfl
@[simp] theorem setHistGroup_payA (s : State) (run : HistRun) (w : Nat) (g : HistGroup) : (setHistGroup s run w g).payA = s.payA := rfl
@[simp] theorem setHistGroup_payB (s : State) (run : HistRun) (w : Nat) (g : HistGroup) : (setHistGroup s run w g).payB = s.payB := rfl
@[simp] theorem setHistGroup_hist (s : State) (run : HistRun) (w : Nat) (g : HistGroup) : (setHistGroup s run w g).hist = s.hist := rfl
@[simp] theorem setHistGroup_host (s : State) (run : HistRun) (w : Nat) (g : HistGroup) : (setHistGroup s run w g).host = s.host := rfl
@[simp] theorem setHistGroup_reads (s : State) (run : HistRun) (w : Nat) (g : HistGroup) : (setHistGroup s run w g).reads = s.reads := rfl
@[simp] theorem setHistGroup_sched (s : State) (run : HistRun) (w : Nat) (g : HistGroup) : (setHistGroup s run w g).sched = s.sched := rfl
@[simp] theorem setHistGroup_fresh (s : State) (run : HistRun) (w : Nat) (g : HistGroup) : (setHistGroup s run w g).fresh = s.fresh := rfl

/-! ## setScanGroup -/

@[simp] theorem setScanGroup_cfg (s : State) (gs : List ScanGroup) (p : Nat) (g : ScanGroup) : (setScanGroup s gs p g).cfg = s.cfg := rfl
@[simp] theorem setScanGroup_numKeys (s : State) (gs : List ScanGroup) (p : Nat) (g : ScanGroup) : (setScanGroup s gs p g).numKeys = s.numKeys := rfl
@[simp] theorem setScanGroup_paddedSize (s : State) (gs : List ScanGroup) (p : Nat) (g : ScanGroup) : (setScanGroup s gs p g).paddedSize = s.paddedSize := rfl
@[simp] theorem setScanGroup_evenPass (s : State) (gs : List ScanGroup) (p : Nat) (g : ScanGroup) : (setScanGroup s gs p g).evenPass = s.evenPass := rfl
@[simp] theorem setScanGroup_oddPass (s : State) (gs : List ScanGroup) (p : Nat) (g : ScanGroup) : (setScanGroup s gs p g).oddPass = s.oddPass := rfl
@[simp] theorem setScanGroup_sortFailed (s : State) (gs : List ScanGroup) (p : Nat) (g : ScanGroup) : (setScanGroup s gs p g).sortFailed = s.sortFailed := rfl
@[simp] theorem setScanGroup_phase (s : State) (gs : List ScanGroup) (p : Nat) (g : ScanGroup) : (setScanGroup s gs p g).phase = s.phase := rfl
@[simp] theorem setScanGroup_cmdErr (s : State) (gs : List ScanGroup) (p : Nat) (g : ScanGroup) : (setScanGroup s gs p g).cmdErr = s.cmdErr := rfl
@[simp] theorem setScanGroup_queue (s : State) (gs : List ScanGroup) (p : Nat) (g : ScanGroup) : (setScanGroup s gs p g).queue = s.queue := rfl
@[simp] theorem setScanGroup_executing (s : State) (gs : List ScanGroup) (p : Nat) (g : ScanGroup) : (setScanGroup s gs p g).executing = some (.scan (gs.set p g)) := rfl
@[simp] theorem setScanGroup_keysA (s : State) (gs : List ScanGroup) (p : Nat) (g : ScanGroup) : (setScanGroup s gs p g).keysA = s.keysA := rfl
@[simp] theorem setScanGroup_keysB (s : State) (gs : List ScanGroup) (p : Nat) (g : ScanGroup) : (setScanGroup s gs p g).keysB = s.keysB := rfl
@[simp] theorem setScanGroup_payA (s : State) (gs : List ScanGroup) (p : Nat) (g : ScanGroup) : (setScanGroup s gs p g).payA = s.payA := rfl
@[simp] theorem setScanGroup_payB (s : State) (gs : List ScanGroup) (p : Nat) (g : ScanGroup) : (setScanGroup s gs p g).payB = s.payB := rfl
@[simp] theorem setScanGroup_hist (s : State) (gs : List ScanGroup) (p : Nat) (g : ScanGroup) : (setScanGroup s gs p g).hist = s.hist := rfl
@[simp] theorem setScanGroup_host (s : State) (gs : List ScanGroup) (p : Nat) (g : ScanGroup) : (setScanGroup s gs p g).host = s.host := rfl
@[simp] theorem setScanGroup_reads (s : State) (gs : List ScanGroup) (p : Nat) (g : ScanGroup) : (setScanGroup s gs p g).reads = s.reads := rfl
@[simp] theorem setScanGroup_sched (s : State) (gs : List ScanGroup) (p : Nat) (g : ScanGroup) : (setScanGroup s gs p g).sched = s.sched := rfl
@[simp] theorem setScanGroup_fresh (s : State) (gs : List ScanGroup) (p : Nat) (g : ScanGroup) : (setScanGroup s gs p g).fresh = s.fresh := rfl

/-! ## answer -/

@[simp] theorem answer_cfg (s : State) (v : Word) : (answer s v).cfg = s.cfg := rfl
@[simp] theorem answer_numKeys (s : State) (v : Word) : (answer s v).numKeys = s.numKeys := rfl
@[simp] theorem answer_paddedSize (s : State) (v : Word) : (answer s v).paddedSize = s.paddedSize := rfl
@[simp] theorem answer_evenPass (s : State) (v : Word) : (answer s v).evenPass = s.evenPass := rfl
@[simp] theorem answer_oddPass (s : State) (v : Word) : (answer s v).oddPass = s.oddPass := rfl
@[simp] theorem answer_sortFailed (s : State) (v : Word) : (answer s v).sortFailed = s.sortFailed := rfl
@[simp] theorem answer_phase (s : State) (v : Word) : (answer s v).phase = s.phase := rfl
@[simp] theorem answer_cmdErr (s : State) (v : Word) : (answer s v).cmdErr = s.cmdErr := rfl
@[simp] theorem answer_queue (s : State) (v : Word) : (answer s v).queue = s.queue := rfl
@[simp] theorem answer_executing (s : State) (v : Word) : (answer s v).executing = s.executing := rfl
@[simp] theorem answer_keysA (s : State) (v : Word) : (answer s v).keysA = s.keysA := rfl
@[simp] theorem answer_keysB (s : State) (v : Word) : (answer s v).keysB = s.keysB := rfl
@[simp] theorem answer_payA (s : State) (v : Word) : (answer s v).payA = s.payA := rfl
@[simp] theorem answer_payB (s : State) (v : Word) : (answer s v).payB = s.payB := rfl
@[simp] theorem answer_hist (s : State) (v : Word) : (answer s v).hist = s.hist := rfl
@[simp] theorem answer_host (s : State) (v : Word) : (answer s v).host = s.host := rfl
@[simp] theorem answer_reads (s : State) (v : Word) : (answer s v).reads = s.reads ++ [v] := rfl
@[simp] theorem answer_sched (s : State) (v : Word) : (answer s v).sched = s.sched := rfl
@[simp] theorem answer_fresh (s : State) (v : Word) : (answer s v).fresh = s.fresh := rfl

/-! ## putHead -/

@[simp] theorem putHead_cfg (s : State) (c : Word) : (putHead s c).cfg = s.cfg := rfl
@[simp] theorem putHead_numKeys (s : State) (c : Word) : (putHead s c).numKeys = s.numKeys := rfl
@[simp] theorem putHead_paddedSize (s : State) (c : Word) : (putHead s c).paddedSize = s.paddedSize := rfl
@[simp] theorem putHead_evenPass (s : State) (c : Word) : (putHead s c).evenPass = s.evenPass := rfl
@[simp] theorem putHead_oddPass (s : State) (c : Word) : (putHead s c).oddPass = s.oddPass := rfl
@[simp] theorem putHead_sortFailed (s : State) (c : Word) : (putHead s c).sortFailed = s.sortFailed := rfl
@[simp] theorem putHead_phase (s : State) (c : Word) : (putHead s c).phase = s.phase := rfl
@[simp] theorem putHead_cmdErr (s : State) (c : Word) : (putHead s c).cmdErr = s.cmdErr := rfl
@[simp] theorem putHead_queue (s : State) (c : Word) : (putHead s c).queue = c :: s.queue.tail := rfl
@[simp] theorem putHead_executing (s : State) (c : Word) : (putHead s c).executing = s.executing := rfl
@[simp] theorem putHead_keysA (s : State) (c : Word) : (putHead s c).keysA = s.keysA := rfl
@[simp] theorem putHead_keysB (s : State) (c : Word) : (putHead s c).keysB = s.keysB := rfl
@[simp] theorem putHead_payA (s : State) (c : Word) : (putHead s c).payA = s.payA := rfl
@[simp] theorem putHead_payB (s : State) (c : Word) : (putHead s c).payB = s.payB := rfl
@[simp] theorem putHead_hist (s : State) (c : Word) : (putHead s c).hist = s.hist := rfl
@[simp] theorem putHead_host (s : State) (c : Word) : (putHead s c).host = s.host := rfl
@[simp] theorem putHead_reads (s : State) (c : Word) : (putHead s c).reads = s.reads := rfl
@[simp] theorem putHead_sched (s : State) (c : Word) : (putHead s c).sched = s.sched := rfl
@[simp] theorem putHead_fresh (s : State) (c : Word) : (putHead s c).fresh = s.fresh := rfl

/-! ## startZero -/

@[simp] theorem startZero_cfg (s : State) : (startZero s).cfg = s.cfg := rfl
@[simp] theorem startZero_numKeys (s : State) : (startZero s).numKeys = s.numKeys := rfl
@[simp] theorem startZero_paddedSize (s : State) : (startZero s).paddedSize = s.paddedSize := rfl
@[simp] theorem startZero_evenPass (s : State) : (startZero s).evenPass = s.evenPass := rfl
@[simp] theorem startZero_oddPass (s : State) : (startZero s).oddPass = s.oddPass := rfl
@[simp] theorem startZero_sortFailed (s : State) : (startZero s).sortFailed = s.sortFailed := rfl
@[simp] theorem startZero_phase (s : State) : (startZero s).phase = s.phase := rfl
@[simp] theorem startZero_cmdErr (s : State) : (startZero s).cmdErr = s.cmdErr := rfl
@[simp] theorem startZero_queue (s : State) : (startZero s).queue = s.queue := rfl
@[simp] theorem startZero_executing (s : State) : (startZero s).executing = some (.zero s.paddedSize.toNat false) := rfl
@[simp] theorem startZero_keysA (s : State) : (startZero s).keysA = s.keysA := rfl
@[simp] theorem startZero_keysB (s : State) : (startZero s).keysB = s.keysB := rfl
@[simp] theorem startZero_payA (s : State) : (startZero s).payA = s.payA := rfl
@[simp] theorem startZero_payB (s : State) : (startZero s).payB = s.payB := rfl
@[simp] theorem startZero_hist (s : State) : (startZero s).hist = s.hist := rfl
@[simp] theorem startZero_host (s : State) : (startZero s).host = s.host := rfl
@[simp] theorem startZero_reads (s : State) : (startZero s).reads = s.reads := rfl
@[simp] theorem startZero_sched (s : State) : (startZero s).sched = s.sched := rfl
@[simp] theorem startZero_fresh (s : State) : (startZero s).fresh = s.fresh := rfl

/-! ## startHistogram -/

@[simp] theorem startHistogram_cfg (s : State) : (startHistogram s).cfg = s.cfg := rfl
@[simp] theorem startHistogram_numKeys (s : State) : (startHistogram s).numKeys = s.numKeys := rfl
@[simp] theorem startHistogram_paddedSize (s : State) : (startHistogram s).paddedSize = s.paddedSize := rfl
@[simp] theorem startHistogram_evenPass (s : State) : (startHistogram s).evenPass = s.evenPass := rfl
@[simp] theorem startHistogram_oddPass (s : State) : (startHistogram s).oddPass = s.oddPass := rfl
@[simp] theorem startHistogram_sortFailed (s : State) : (startHistogram s).sortFailed = s.sortFailed := rfl
@[simp] theorem startHistogram_phase (s : State) : (startHistogram s).phase = s.phase := rfl
@[simp] theorem startHistogram_cmdErr (s : State) : (startHistogram s).cmdErr = s.cmdErr := rfl
@[simp] theorem startHistogram_queue (s : State) : (startHistogram s).queue = s.queue := rfl
@[simp] theorem startHistogram_keysA (s : State) : (startHistogram s).keysA = s.keysA := rfl
@[simp] theorem startHistogram_keysB (s : State) : (startHistogram s).keysB = s.keysB := rfl
@[simp] theorem startHistogram_payA (s : State) : (startHistogram s).payA = s.payA := rfl
@[simp] theorem startHistogram_payB (s : State) : (startHistogram s).payB = s.payB := rfl
@[simp] theorem startHistogram_hist (s : State) : (startHistogram s).hist = s.hist := rfl
@[simp] theorem startHistogram_host (s : State) : (startHistogram s).host = s.host := rfl
@[simp] theorem startHistogram_reads (s : State) : (startHistogram s).reads = s.reads := rfl
@[simp] theorem startHistogram_sched (s : State) : (startHistogram s).sched = s.sched := rfl
@[simp] theorem startHistogram_fresh (s : State) : (startHistogram s).fresh = s.fresh + 1 := rfl

/-! ## startScan -/

@[simp] theorem startScan_cfg (s : State) : (startScan s).cfg = s.cfg := rfl
@[simp] theorem startScan_numKeys (s : State) : (startScan s).numKeys = s.numKeys := rfl
@[simp] theorem startScan_paddedSize (s : State) : (startScan s).paddedSize = s.paddedSize := rfl
@[simp] theorem startScan_evenPass (s : State) : (startScan s).evenPass = s.evenPass := rfl
@[simp] theorem startScan_oddPass (s : State) : (startScan s).oddPass = s.oddPass := rfl
@[simp] theorem startScan_sortFailed (s : State) : (startScan s).sortFailed = s.sortFailed := rfl
@[simp] theorem startScan_phase (s : State) : (startScan s).phase = s.phase := rfl
@[simp] theorem startScan_cmdErr (s : State) : (startScan s).cmdErr = s.cmdErr := rfl
@[simp] theorem startScan_queue (s : State) : (startScan s).queue = s.queue := rfl
@[simp] theorem startScan_keysA (s : State) : (startScan s).keysA = s.keysA := rfl
@[simp] theorem startScan_keysB (s : State) : (startScan s).keysB = s.keysB := rfl
@[simp] theorem startScan_payA (s : State) : (startScan s).payA = s.payA := rfl
@[simp] theorem startScan_payB (s : State) : (startScan s).payB = s.payB := rfl
@[simp] theorem startScan_hist (s : State) : (startScan s).hist = s.hist := rfl
@[simp] theorem startScan_host (s : State) : (startScan s).host = s.host := rfl
@[simp] theorem startScan_reads (s : State) : (startScan s).reads = s.reads := rfl
@[simp] theorem startScan_sched (s : State) : (startScan s).sched = s.sched := rfl
@[simp] theorem startScan_fresh (s : State) : (startScan s).fresh = s.fresh + 1 := rfl

/-! ## startScatter -/

@[simp] theorem startScatter_cfg (p : Nat) (s : State) : (startScatter p s).cfg = s.cfg := rfl
@[simp] theorem startScatter_numKeys (p : Nat) (s : State) : (startScatter p s).numKeys = s.numKeys := rfl
@[simp] theorem startScatter_paddedSize (p : Nat) (s : State) : (startScatter p s).paddedSize = s.paddedSize := rfl
@[simp] theorem startScatter_evenPass (p : Nat) (s : State) : (startScatter p s).evenPass = s.evenPass := rfl
@[simp] theorem startScatter_oddPass (p : Nat) (s : State) : (startScatter p s).oddPass = s.oddPass := rfl
@[simp] theorem startScatter_sortFailed (p : Nat) (s : State) : (startScatter p s).sortFailed = s.sortFailed := rfl
@[simp] theorem startScatter_phase (p : Nat) (s : State) : (startScatter p s).phase = s.phase := rfl
@[simp] theorem startScatter_cmdErr (p : Nat) (s : State) : (startScatter p s).cmdErr = s.cmdErr := rfl
@[simp] theorem startScatter_queue (p : Nat) (s : State) : (startScatter p s).queue = s.queue := rfl
@[simp] theorem startScatter_keysA (p : Nat) (s : State) : (startScatter p s).keysA = s.keysA := rfl
@[simp] theorem startScatter_keysB (p : Nat) (s : State) : (startScatter p s).keysB = s.keysB := rfl
@[simp] theorem startScatter_payA (p : Nat) (s : State) : (startScatter p s).payA = s.payA := rfl
@[simp] theorem startScatter_payB (p : Nat) (s : State) : (startScatter p s).payB = s.payB := rfl
@[simp] theorem startScatter_hist (p : Nat) (s : State) : (startScatter p s).hist = s.hist := rfl
@[simp] theorem startScatter_host (p : Nat) (s : State) : (startScatter p s).host = s.host := rfl
@[simp] theorem startScatter_reads (p : Nat) (s : State) : (startScatter p s).reads = s.reads := rfl
@[simp] theorem startScatter_sched (p : Nat) (s : State) : (startScatter p s).sched = s.sched := rfl
@[simp] theorem startScatter_fresh (p : Nat) (s : State) : (startScatter p s).fresh = s.fresh + 1 := rfl

/-! ## histogramDone -/

@[simp] theorem histogramDone_cfg (s : State) : (histogramDone s).cfg = s.cfg := rfl
@[simp] theorem histogramDone_numKeys (s : State) : (histogramDone s).numKeys = s.numKeys := rfl
@[simp] theorem histogramDone_paddedSize (s : State) : (histogramDone s).paddedSize = s.paddedSize := rfl
@[simp] theorem histogramDone_evenPass (s : State) : (histogramDone s).evenPass = s.evenPass := rfl
@[simp] theorem histogramDone_oddPass (s : State) : (histogramDone s).oddPass = s.oddPass := rfl
@[simp] theorem histogramDone_sortFailed (s : State) : (histogramDone s).sortFailed = s.sortFailed := rfl
@[simp] theorem histogramDone_phase (s : State) : (histogramDone s).phase = .histogrammed := rfl
@[simp] theorem histogramDone_cmdErr (s : State) : (histogramDone s).cmdErr = s.cmdErr := rfl
@[simp] theorem histogramDone_queue (s : State) : (histogramDone s).queue = s.queue := rfl
@[simp] theorem histogramDone_executing (s : State) : (histogramDone s).executing = none := rfl
@[simp] theorem histogramDone_keysA (s : State) : (histogramDone s).keysA = s.keysA := rfl
@[simp] theorem histogramDone_keysB (s : State) : (histogramDone s).keysB = s.keysB := rfl
@[simp] theorem histogramDone_payA (s : State) : (histogramDone s).payA = s.payA := rfl
@[simp] theorem histogramDone_payB (s : State) : (histogramDone s).payB = s.payB := rfl
@[simp] theorem histogramDone_hist (s : State) : (histogramDone s).hist = s.hist := rfl
@[simp] theorem histogramDone_host (s : State) : (histogramDone s).host = s.host := rfl
@[simp] theorem histogramDone_reads (s : State) : (histogramDone s).reads = s.reads := rfl
@[simp] theorem histogramDone_sched (s : State) : (histogramDone s).sched = s.sched := rfl
@[simp] theorem histogramDone_fresh (s : State) : (histogramDone s).fresh = s.fresh := rfl

/-! ## scanDone -/

@[simp] theorem scanDone_cfg (s : State) : (scanDone s).cfg = s.cfg := rfl
@[simp] theorem scanDone_numKeys (s : State) : (scanDone s).numKeys = s.numKeys := rfl
@[simp] theorem scanDone_paddedSize (s : State) : (scanDone s).paddedSize = s.paddedSize := rfl
@[simp] theorem scanDone_evenPass (s : State) : (scanDone s).evenPass = s.evenPass := rfl
@[simp] theorem scanDone_oddPass (s : State) : (scanDone s).oddPass = s.oddPass := rfl
@[simp] theorem scanDone_sortFailed (s : State) : (scanDone s).sortFailed = s.sortFailed := rfl
@[simp] theorem scanDone_phase (s : State) : (scanDone s).phase = .scanned := rfl
@[simp] theorem scanDone_cmdErr (s : State) : (scanDone s).cmdErr = s.cmdErr := rfl
@[simp] theorem scanDone_queue (s : State) : (scanDone s).queue = s.queue := rfl
@[simp] theorem scanDone_executing (s : State) : (scanDone s).executing = none := rfl
@[simp] theorem scanDone_keysA (s : State) : (scanDone s).keysA = s.keysA := rfl
@[simp] theorem scanDone_keysB (s : State) : (scanDone s).keysB = s.keysB := rfl
@[simp] theorem scanDone_payA (s : State) : (scanDone s).payA = s.payA := rfl
@[simp] theorem scanDone_payB (s : State) : (scanDone s).payB = s.payB := rfl
@[simp] theorem scanDone_hist (s : State) : (scanDone s).hist = s.hist := rfl
@[simp] theorem scanDone_host (s : State) : (scanDone s).host = s.host := rfl
@[simp] theorem scanDone_reads (s : State) : (scanDone s).reads = s.reads := rfl
@[simp] theorem scanDone_sched (s : State) : (scanDone s).sched = s.sched := rfl
@[simp] theorem scanDone_fresh (s : State) : (scanDone s).fresh = s.fresh := rfl

/-! ## scatterEvenDone -/

@[simp] theorem scatterEvenDone_cfg (s : State) : (scatterEvenDone s).cfg = s.cfg := rfl
@[simp] theorem scatterEvenDone_numKeys (s : State) : (scatterEvenDone s).numKeys = s.numKeys := rfl
@[simp] theorem scatterEvenDone_paddedSize (s : State) : (scatterEvenDone s).paddedSize = s.paddedSize := rfl
@[simp] theorem scatterEvenDone_evenPass (s : State) : (scatterEvenDone s).evenPass = s.evenPass + 1 := rfl
@[simp] theorem scatterEvenDone_oddPass (s : State) : (scatterEvenDone s).oddPass = s.oddPass := rfl
@[simp] theorem scatterEvenDone_sortFailed (s : State) : (scatterEvenDone s).sortFailed = s.sortFailed := rfl
@[simp] theorem scatterEvenDone_phase (s : State) : (scatterEvenDone s).phase = s.phase := rfl
@[simp] theorem scatterEvenDone_cmdErr (s : State) : (scatterEvenDone s).cmdErr = s.cmdErr := rfl
@[simp] theorem scatterEvenDone_queue (s : State) : (scatterEvenDone s).queue = s.queue := rfl
@[simp] theorem scatterEvenDone_executing (s : State) : (scatterEvenDone s).executing = none := rfl
@[simp] theorem scatterEvenDone_keysA (s : State) : (scatterEvenDone s).keysA = s.keysA := rfl
@[simp] theorem scatterEvenDone_keysB (s : State) : (scatterEvenDone s).keysB = s.keysB := rfl
@[simp] theorem scatterEvenDone_payA (s : State) : (scatterEvenDone s).payA = s.payA := rfl
@[simp] theorem scatterEvenDone_payB (s : State) : (scatterEvenDone s).payB = s.payB := rfl
@[simp] theorem scatterEvenDone_hist (s : State) : (scatterEvenDone s).hist = s.hist := rfl
@[simp] theorem scatterEvenDone_host (s : State) : (scatterEvenDone s).host = s.host := rfl
@[simp] theorem scatterEvenDone_reads (s : State) : (scatterEvenDone s).reads = s.reads := rfl
@[simp] theorem scatterEvenDone_sched (s : State) : (scatterEvenDone s).sched = s.sched := rfl
@[simp] theorem scatterEvenDone_fresh (s : State) : (scatterEvenDone s).fresh = s.fresh := rfl

/-! ## scatterOddDone -/

@[simp] theorem scatterOddDone_cfg (s : State) : (scatterOddDone s).cfg = s.cfg := rfl
@[simp] theorem scatterOddDone_numKeys (s : State) : (scatterOddDone s).numKeys = s.numKeys := rfl
@[simp] theorem scatterOddDone_paddedSize (s : State) : (scatterOddDone s).paddedSize = s.paddedSize := rfl
@[simp] theorem scatterOddDone_evenPass (s : State) : (scatterOddDone s).evenPass = s.evenPass := rfl
@[simp] theorem scatterOddDone_oddPass (s : State) : (scatterOddDone s).oddPass = s.oddPass + 1 := rfl
@[simp] theorem scatterOddDone_sortFailed (s : State) : (scatterOddDone s).sortFailed = s.sortFailed := rfl
@[simp] theorem scatterOddDone_phase (s : State) : (scatterOddDone s).phase = if s.oddPass + 1 = 2 then .sorted else s.phase := rfl
@[simp] theorem scatterOddDone_cmdErr (s : State) : (scatterOddDone s).cmdErr = s.cmdErr := rfl
@[simp] theorem scatterOddDone_queue (s : State) : (scatterOddDone s).queue = s.queue := rfl
@[simp] theorem scatterOddDone_executing (s : State) : (scatterOddDone s).executing = none := rfl
@[simp] theorem scatterOddDone_keysA (s : State) : (scatterOddDone s).keysA = s.keysA := rfl
@[simp] theorem scatterOddDone_keysB (s : State) : (scatterOddDone s).keysB = s.keysB := rfl
@[simp] theorem scatterOddDone_payA (s : State) : (scatterOddDone s).payA = s.payA := rfl
@[simp] theorem scatterOddDone_payB (s : State) : (scatterOddDone s).payB = s.payB := rfl
@[simp] theorem scatterOddDone_hist (s : State) : (scatterOddDone s).hist = s.hist := rfl
@[simp] theorem scatterOddDone_host (s : State) : (scatterOddDone s).host = s.host := rfl
@[simp] theorem scatterOddDone_reads (s : State) : (scatterOddDone s).reads = s.reads := rfl
@[simp] theorem scatterOddDone_sched (s : State) : (scatterOddDone s).sched = s.sched := rfl
@[simp] theorem scatterOddDone_fresh (s : State) : (scatterOddDone s).fresh = s.fresh := rfl

/-! ## zeroClear -/

@[simp] theorem zeroClear_cfg (s : State) (n : Nat) : (zeroClear s n).cfg = s.cfg := rfl
@[simp] theorem zeroClear_numKeys (s : State) (n : Nat) : (zeroClear s n).numKeys = s.numKeys := rfl
@[simp] theorem zeroClear_paddedSize (s : State) (n : Nat) : (zeroClear s n).paddedSize = s.paddedSize := rfl
@[simp] theorem zeroClear_evenPass (s : State) (n : Nat) : (zeroClear s n).evenPass = 0 := rfl
@[simp] theorem zeroClear_oddPass (s : State) (n : Nat) : (zeroClear s n).oddPass = 0 := rfl
@[simp] theorem zeroClear_sortFailed (s : State) (n : Nat) : (zeroClear s n).sortFailed = 0 := rfl
@[simp] theorem zeroClear_phase (s : State) (n : Nat) : (zeroClear s n).phase = s.phase := rfl
@[simp] theorem zeroClear_cmdErr (s : State) (n : Nat) : (zeroClear s n).cmdErr = false := rfl
@[simp] theorem zeroClear_queue (s : State) (n : Nat) : (zeroClear s n).queue = s.queue := rfl
@[simp] theorem zeroClear_executing (s : State) (n : Nat) : (zeroClear s n).executing = some (.zero n true) := rfl
@[simp] theorem zeroClear_keysA (s : State) (n : Nat) : (zeroClear s n).keysA = s.keysA := rfl
@[simp] theorem zeroClear_keysB (s : State) (n : Nat) : (zeroClear s n).keysB = s.keysB := rfl
@[simp] theorem zeroClear_payA (s : State) (n : Nat) : (zeroClear s n).payA = s.payA := rfl
@[simp] theorem zeroClear_payB (s : State) (n : Nat) : (zeroClear s n).payB = s.payB := rfl
@[simp] theorem zeroClear_hist (s : State) (n : Nat) : (zeroClear s n).hist = Memory.writeWords s.hist (zeroStores s.cfg n) := rfl
@[simp] theorem zeroClear_host (s : State) (n : Nat) : (zeroClear s n).host = s.host := rfl
@[simp] theorem zeroClear_reads (s : State) (n : Nat) : (zeroClear s n).reads = s.reads := rfl
@[simp] theorem zeroClear_sched (s : State) (n : Nat) : (zeroClear s n).sched = s.sched := rfl
@[simp] theorem zeroClear_fresh (s : State) (n : Nat) : (zeroClear s n).fresh = s.fresh := rfl

/-! ## zeroDone -/

@[simp] theorem zeroDone_cfg (s : State) : (zeroDone s).cfg = s.cfg := rfl
@[simp] theorem zeroDone_numKeys (s : State) : (zeroDone s).numKeys = s.numKeys := rfl
@[simp] theorem zeroDone_paddedSize (s : State) : (zeroDone s).paddedSize = s.paddedSize := rfl
@[simp] theorem zeroDone_evenPass (s : State) : (zeroDone s).evenPass = s.evenPass := rfl
@[simp] theorem zeroDone_oddPass (s : State) : (zeroDone s).oddPass = s.oddPass := rfl
@[simp] theorem zeroDone_sortFailed (s : State) : (zeroDone s).sortFailed = s.sortFailed := rfl
@[simp] theorem zeroDone_phase (s : State) : (zeroDone s).phase = .zeroed := rfl
@[simp] theorem zeroDone_cmdErr (s : State) : (zeroDone s).cmdErr = s.cmdErr := rfl
@[simp] theorem zeroDone_queue (s : State) : (zeroDone s).queue = s.queue := rfl
@[simp] theorem zeroDone_executing (s : State) : (zeroDone s).executing = none := rfl
@[simp] theorem zeroDone_keysA (s : State) : (zeroDone s).keysA = s.keysA := rfl
@[simp] theorem zeroDone_keysB (s : State) : (zeroDone s).keysB = s.keysB := rfl
@[simp] theorem zeroDone_payA (s : State) : (zeroDone s).payA = s.payA := rfl
@[simp] theorem zeroDone_payB (s : State) : (zeroDone s).payB = s.payB := rfl
@[simp] theorem zeroDone_hist (s : State) : (zeroDone s).hist = s.hist := rfl
@[simp] theorem zeroDone_host (s : State) : (zeroDone s).host = s.host := rfl
@[simp] theorem zeroDone_reads (s : State) : (zeroDone s).reads = s.reads := rfl
@[simp] theorem zeroDone_sched (s : State) : (zeroDone s).sched = s.sched := rfl
@[simp] theorem zeroDone_fresh (s : State) : (zeroDone s).fresh = s.fresh := rfl

/-! ## resetEvent -/

@[simp] theorem resetEvent_cfg (s : State) : (resetEvent s).cfg = s.cfg := rfl
@[simp] theorem resetEvent_numKeys (s : State) : (resetEvent s).numKeys = 0 := rfl
@[simp] theorem resetEvent_paddedSize (s : State) : (resetEvent s).paddedSize = 0 := rfl
@[simp] theorem resetEvent_evenPass (s : State) : (resetEvent s).evenPass = 0 := rfl
@[simp] theorem resetEvent_oddPass (s : State) : (resetEvent s).oddPass = 0 := rfl
@[simp] theorem resetEvent_sortFailed (s : State) : (resetEvent s).sortFailed = 0 := rfl
@[simp] theorem resetEvent_phase (s : State) : (resetEvent s).phase = .unprepared := rfl
@[simp] theorem resetEvent_cmdErr (s : State) : (resetEvent s).cmdErr = false := rfl
@[simp] theorem resetEvent_queue (s : State) : (resetEvent s).queue = [] := rfl
@[simp] theorem resetEvent_executing (s : State) : (resetEvent s).executing = none := rfl
@[simp] theorem resetEvent_keysA (s : State) : (resetEvent s).keysA = [] := rfl
@[simp] theorem resetEvent_keysB (s : State) : (resetEvent s).keysB = [] := rfl
@[simp] theorem resetEvent_payA (s : State) : (resetEvent s).payA = [] := rfl
@[simp] theorem resetEvent_payB (s : State) : (resetEvent s).payB = [] := rfl
@[simp] theorem resetEvent_hist (s : State) : (resetEvent s).hist = [] := rfl
@[simp] theorem resetEvent_host (s : State) : (resetEvent s).host = s.host := rfl
@[simp] theorem resetEvent_reads (s : State) : (resetEvent s).reads = s.reads := rfl
@[simp] theorem resetEvent_sched (s : State) : (resetEvent s).sched = s.sched := rfl
@[simp] theorem resetEvent_fresh (s : State) : (resetEvent s).fresh = s.fresh := rfl

/-! ## setMem, storeWord, storeWords, publishWord -/

@[simp] theorem setMem_cfg (s : State) (sp : Space) (m : Memory) : (setMem s sp m).cfg = s.cfg := by
  cases sp <;> rfl
@[simp] theorem setMem_numKeys (s : State) (sp : Space) (m : Memory) : (setMem s sp m).numKeys = s.numKeys := by
  cases sp <;> rfl
@[simp] theorem setMem_paddedSize (s : State) (sp : Space) (m : Memory) : (setMem s sp m).paddedSize = s.paddedSize := by
  cases sp <;> rfl
@[simp] theorem setMem_evenPass (s : State) (sp : Space) (m : Memory) : (setMem s sp m).evenPass = s.evenPass := by
  cases sp <;> rfl
@[simp] theorem setMem_oddPass (s : State) (sp : Space) (m : Memory) : (setMem s sp m).oddPass = s.oddPass := by
  cases sp <;> rfl
@[simp] theorem setMem_sortFailed (s : State) (sp : Space) (m : Memory) : (setMem s sp m).sortFailed = s.sortFailed := by
  cases sp <;> rfl
@[simp] theorem setMem_phase (s : State) (sp : Space) (m : Memory) : (setMem s sp m).phase = s.phase := by
  cases sp <;> rfl
@[simp] theorem setMem_cmdErr (s : State) (sp : Space) (m : Memory) : (setMem s sp m).cmdErr = s.cmdErr := by
  cases sp <;> rfl
@[simp] theorem setMem_queue (s : State) (sp : Space) (m : Memory) : (setMem s sp m).queue = s.queue := by
  cases sp <;> rfl
@[simp] theorem setMem_executing (s : State) (sp : Space) (m : Memory) : (setMem s sp m).executing = s.executing := by
  cases sp <;> rfl
@[simp] theorem setMem_host (s : State) (sp : Space) (m : Memory) : (setMem s sp m).host = s.host := by
  cases sp <;> rfl
@[simp] theorem setMem_reads (s : State) (sp : Space) (m : Memory) : (setMem s sp m).reads = s.reads := by
  cases sp <;> rfl
@[simp] theorem setMem_sched (s : State) (sp : Space) (m : Memory) : (setMem s sp m).sched = s.sched := by
  cases sp <;> rfl
@[simp] theorem setMem_fresh (s : State) (sp : Space) (m : Memory) : (setMem s sp m).fresh = s.fresh := by
  cases sp <;> rfl
@[simp] theorem storeWord_cfg (s : State) (sp : Space) (i : Nat) (v : Word) : (storeWord s sp i v).cfg = s.cfg := by
  simp [storeWord]
@[simp] theorem storeWord_numKeys (s : State) (sp : Space) (i : Nat) (v : Word) : (storeWord s sp i v).numKeys = s.numKeys := by
  simp [storeWord]
@[simp] theorem storeWord_paddedSize (s : State) (sp : Space) (i : Nat) (v : Word) : (storeWord s sp i v).paddedSize = s.paddedSize := by
  simp [storeWord]
@[simp] theorem storeWord_evenPass (s : State) (sp : Space) (i : Nat) (v : Word) : (storeWord s sp i v).evenPass = s.evenPass := by
  simp [storeWord]
@[simp] theorem storeWord_oddPass (s : State) (sp : Space) (i : Nat) (v : Word) : (storeWord s sp i v).oddPass = s.oddPass := by
  simp [storeWord]
@[simp] theorem storeWord_sortFailed (s : State) (sp : Space) (i : Nat) (v : Word) : (storeWord s sp i v).sortFailed = s.sortFailed := by
  simp [storeWord]
@[simp] theorem storeWord_phase (s : State) (sp : Space) (i : Nat) (v : Word) : (storeWord s sp i v).phase = s.phase := by
  simp [storeWord]
@[simp] theorem storeWord_cmdErr (s : State) (sp : Space) (i : Nat) (v : Word) : (storeWord s sp i v).cmdErr = s.cmdErr := by
  simp [storeWord]
@[simp] theorem storeWord_queue (s : State) (sp : Space) (i : Nat) (v : Word) : (storeWord s sp i v).queue = s.queue := by
  simp [storeWord]
@[simp] theorem storeWord_executing (s : State) (sp : Space) (i : Nat) (v : Word) : (storeWord s sp i v).executing = s.executing := by
  simp [storeWord]
@[simp] theorem storeWord_host (s : State) (sp : Space) (i : Nat) (v : Word) : (storeWord s sp i v).host = s.host := by
  simp [storeWord]
@[simp] theorem storeWord_reads (s : State) (sp : Space) (i : Nat) (v : Word) : (storeWord s sp i v).reads = s.reads := by
  simp [storeWord]
@[simp] theorem storeWord_sched (s : State) (sp : Space) (i : Nat) (v : Word) : (storeWord s sp i v).sched = s.sched := by
  simp [storeWord]
@[simp] theorem storeWord_fresh (s : State) (sp : Space) (i : Nat) (v : Word) : (storeWord s sp i v).fresh = s.fresh := by
  simp [storeWord]
@[simp] theorem storeWords_cfg (s : State) (sp : Space) (ws : List (Nat × Word)) : (storeWords s sp ws).cfg = s.cfg := by
  simp [storeWords]
@[simp] theorem storeWords_numKeys (s : State) (sp : Space) (ws : List (Nat × Word)) : (storeWords s sp ws).numKeys = s.numKeys := by
  simp [storeWords]
@[simp] theorem storeWords_paddedSize (s : State) (sp : Space) (ws : List (Nat × Word)) : (storeWords s sp ws).paddedSize = s.paddedSize := by
  simp [storeWords]
@[simp] theorem storeWords_evenPass (s : State) (sp : Space) (ws : List (Nat × Word)) : (storeWords s sp ws).evenPass = s.evenPass := by
  simp [storeWords]
@[simp] theorem storeWords_oddPass (s : State) (sp : Space) (ws : List (Nat × Word)) : (storeWords s sp ws).oddPass = s.oddPass := by
  simp [storeWords]
@[simp] theorem storeWords_sortFailed (s : State) (sp : Space) (ws : List (Nat × Word)) : (storeWords s sp ws).sortFailed = s.sortFailed := by
  simp [storeWords]
@[simp] theorem storeWords_phase (s : State) (sp : Space) (ws : List (Nat × Word)) : (storeWords s sp ws).phase = s.phase := by
  simp [storeWords]
@[simp] theorem storeWords_cmdErr (s : State) (sp : Space) (ws : List (Nat × Word)) : (storeWords s sp ws).cmdErr = s.cmdErr := by
  simp [storeWords]
@[simp] theorem storeWords_queue (s : State) (sp : Space) (ws : List (Nat × Word)) : (storeWords s sp ws).queue = s.queue := by
  simp [storeWords]
@[simp] theorem storeWords_executing (s : State) (sp : Space) (ws : List (Nat × Word)) : (storeWords s sp ws).executing = s.executing := by
  simp [storeWords]
@[simp] theorem storeWords_host (s : State) (sp : Space) (ws : List (Nat × Word)) : (storeWords s sp ws).host = s.host := by
  simp [storeWords]
@[simp] theorem storeWords_reads (s : State) (sp : Space) (ws : List (Nat × Word)) : (storeWords s sp ws).reads = s.reads := by
  simp [storeWords]
@[simp] theorem storeWords_sched (s : State) (sp : Space) (ws : List (Nat × Word)) : (storeWords s sp ws).sched = s.sched := by
  simp [storeWords]
@[simp] theorem storeWords_fresh (s : State) (sp : Space) (ws : List (Nat × Word)) : (storeWords s sp ws).fresh = s.fresh := by
  simp [storeWords]

/-! ## draw -/

@[simp] theorem draw_cfg (s : State) : (draw s).2.cfg = s.cfg := by
  unfold draw; split <;> rfl
@[simp] theorem draw_numKeys (s : State) : (draw s).2.numKeys = s.numKeys := by
  unfold draw; split <;> rfl
@[simp] theorem draw_paddedSize (s : State) : (draw s).2.paddedSize = s.paddedSize := by
  unfold draw; split <;> rfl
@[simp] theorem draw_evenPass (s : State) : (draw s).2.evenPass = s.evenPass := by
  unfold draw; split <;> rfl
@[simp] theorem draw_oddPass (s : State) : (draw s).2.oddPass = s.oddPass := by
  unfold draw; split <;> rfl
@[simp] theorem draw_sortFailed (s : State) : (draw s).2.sortFailed = s.sortFailed := by
  unfold draw; split <;> rfl
@[simp] theorem draw_phase (s : State) : (draw s).2.phase = s.phase := by
  unfold draw; split <;> rfl
@[simp] theorem draw_cmdErr (s : State) : (draw s).2.cmdErr = s.cmdErr := by
  unfold draw; split <;> rfl
@[simp] theorem draw_queue (s : State) : (draw s).2.queue = s.queue := by
  unfold draw; split <;> rfl
@[simp] theorem draw_executing (s : State) : (draw s).2.executing = s.executing := by
  unfold draw; split <;> rfl
@[simp] theorem draw_keysA (s : State) : (draw s).2.keysA = s.keysA := by
  unfold draw; split <;> rfl
@[simp] theorem draw_keysB (s : State) : (draw s).2.keysB = s.keysB := by
  unfold draw; split <;> rfl
@[simp] theorem draw_payA (s : State) : (draw s).2.payA = s.payA := by
  unfold draw; split <;> rfl
@[simp] theorem draw_payB (s : State) : (draw s).2.payB = s.payB := by
  unfold draw; split <;> rfl
@[simp] theorem draw_hist (s : State) : (draw s).2.hist = s.hist := by
  unfold draw; split <;> rfl
@[simp] theorem draw_host (s : State) : (draw s).2.host = s.host := by
  unfold draw; split <;> rfl
@[simp] theorem draw_reads (s : State) : (draw s).2.reads = s.reads := by
  unfold draw; split <;> rfl

/-! ## Spaces -/

@[simp] theorem memOf_setMem_same (s : State) (sp : Space) (m : Memory) : memOf (setMem s sp m) sp = m := by
  cases sp <;> rfl

theorem memOf_setMem_other (s : State) {sp sp' : Space} (m : Memory) (h : sp' ≠ sp) :
    memOf (setMem s sp m) sp' = memOf s sp' := by
  cases sp <;> cases sp' <;> first | rfl | exact absurd rfl h

theorem memOf_setMem (s : State) (sp sp' : Space) (m : Memory) :
    memOf (setMem s sp m) sp' = if sp' = sp then m else memOf s sp' := by
  split
  · rename_i h
    rw [h, memOf_setMem_same]
  · rename_i h
    exact memOf_setMem_other s m h

@[simp] theorem memOf_keysA (s : State) : memOf s .keysA = s.keysA := rfl
@[simp] theorem memOf_keysB (s : State) : memOf s .keysB = s.keysB := rfl
@[simp] theorem memOf_payA (s : State) : memOf s .payA = s.payA := rfl
@[simp] theorem memOf_payB (s : State) : memOf s .payB = s.payB := rfl
@[simp] theorem memOf_hist (s : State) : memOf s .hist = s.hist := rfl

/-- A word stored in a space reads back; every other word of every space reads as before. -/
theorem loadWord_storeWord {s : State} {sp : Space} (h : Memory.wf (memOf s sp) = true) (i : Nat) (v : Word)
    (sp' : Space) (j : Nat) :
    loadWord (storeWord s sp i v) sp' j = if sp' = sp ∧ j = i then v else loadWord s sp' j := by
  simp only [loadWord, storeWord, memOf_setMem]
  by_cases hsp : sp' = sp
  · subst hsp
    simp [Memory.readWord_writeWord h]
  · simp [hsp]

/-- The pass decides the four roles (44_orchestrator.md R223). -/
theorem roles_even {p : Nat} (h : p % 2 = 0) :
    sourceKeys p = .keysA ∧ sourcePay p = .payA ∧ destKeys p = .keysB ∧ destPay p = .payB := by
  simp [sourceKeys, sourcePay, destKeys, destPay, h]

theorem roles_odd {p : Nat} (h : p % 2 = 1) :
    sourceKeys p = .keysB ∧ sourcePay p = .payB ∧ destKeys p = .keysA ∧ destPay p = .payA := by
  simp [sourceKeys, sourcePay, destKeys, destPay, h]

end Sys2Proof.Machine
end

