-- ==== Sys2Proof/Laws/Ops.lean ====
section
/-! SUPPORT. One lemma for each shared operation that says once what it can do: the guard, the draws, coherent loads,
the run of a command, the sequencer's acceptance, a step. -/

namespace Sys2Proof.Machine

/-! ## The guard -/

/-- A guarded access goes on exactly when every index is inside the space. -/
theorem guardSpace_next {s t : State} {sp : Space} {is : List Nat} {k : Result} :
    guardSpace s sp is k = .next t ↔ (∀ i ∈ is, i < spaceWords s.cfg sp) ∧ k = .next t := by
  unfold guardSpace
  by_cases h : is.all (fun i => decide (i < spaceWords s.cfg sp)) = true
  · simp only [h, if_true]
    have : ∀ i ∈ is, i < spaceWords s.cfg sp := by simpa using h
    exact ⟨fun hk => ⟨this, hk⟩, fun hk => hk.2⟩
  · simp only [h]
    constructor
    · intro hk
      simp at hk
    · intro hk
      exact absurd (by simpa using hk.1) h

theorem guardSpace_inside {s : State} {sp : Space} {is : List Nat} {k : Result}
    (h : ∀ i ∈ is, i < spaceWords s.cfg sp) : guardSpace s sp is k = k := by
  unfold guardSpace
  rw [if_pos (by simpa using h)]

/-! ## Draws -/

/-- s' is s with some draws taken: only the schedule and the free-value counter differ. -/
def DrawsFrom (s s' : State) : Prop := s' = { s with sched := s'.sched, fresh := s'.fresh }

theorem DrawsFrom.refl (s : State) : DrawsFrom s s := rfl

theorem DrawsFrom.trans {s s' s'' : State} (h : DrawsFrom s s') (h' : DrawsFrom s' s'') : DrawsFrom s s'' := by
  unfold DrawsFrom at *
  rw [h', h]

theorem draw_drawsFrom (s : State) : DrawsFrom s (draw s).2 := by
  unfold draw DrawsFrom
  split <;> rfl

theorem DrawsFrom.fields {s s' : State} (h : DrawsFrom s s') :
    s'.cfg = s.cfg ∧ s'.numKeys = s.numKeys ∧ s'.paddedSize = s.paddedSize ∧ s'.evenPass = s.evenPass
      ∧ s'.oddPass = s.oddPass ∧ s'.sortFailed = s.sortFailed ∧ s'.phase = s.phase ∧ s'.cmdErr = s.cmdErr
      ∧ s'.queue = s.queue ∧ s'.executing = s.executing ∧ s'.host = s.host ∧ s'.reads = s.reads
      ∧ s'.keysA = s.keysA ∧ s'.keysB = s.keysB ∧ s'.payA = s.payA ∧ s'.payB = s.payB ∧ s'.hist = s.hist := by
  unfold DrawsFrom at h
  rw [h]
  simp

theorem DrawsFrom.memOf {s s' : State} (h : DrawsFrom s s') (sp : Space) : memOf s' sp = memOf s sp := by
  obtain ⟨_, _, _, _, _, _, _, _, _, _, _, _, h1, h2, h3, h4, h5⟩ := h.fields
  cases sp <;> simp [h1, h2, h3, h4, h5]

theorem choose_mem {α : Type} (a : α) (rest : List α) (k : Nat) : choose a rest k ∈ a :: rest := by
  cases k with
  | zero => simp [choose]
  | succ k =>
    have hlt : (k + 1) % (rest.length + 1) < (a :: rest).length := by
      simpa using Nat.mod_lt _ (Nat.succ_pos _)
    rw [choose, List.getD_eq_getElem _ _ hlt]
    exact List.getElem_mem hlt

/-- A choice answers one of the listed things and takes nothing but draws. -/
theorem pick_some {α : Type} {xs : List α} {s s' : State} {a : α} (h : pick xs s = some (a, s')) :
    a ∈ xs ∧ DrawsFrom s s' := by
  match xs with
  | [] => simp [pick] at h
  | [b] =>
    simp only [pick, Option.some.injEq, Prod.mk.injEq] at h
    obtain ⟨rfl, rfl⟩ := h
    exact ⟨by simp, .refl _⟩
  | b :: c :: rest =>
    simp only [pick, Option.some.injEq, Prod.mk.injEq] at h
    obtain ⟨rfl, rfl⟩ := h
    exact ⟨choose_mem _ _ _, draw_drawsFrom s⟩

/-- Where something is listed, a choice is made. -/
theorem pick_isSome {α : Type} {xs : List α} (h : xs ≠ []) (s : State) : ∃ a s', pick xs s = some (a, s') := by
  match xs with
  | [] => exact absurd rfl h
  | [b] => exact ⟨_, _, rfl⟩
  | b :: c :: rest => exact ⟨_, _, rfl⟩

/-- A single possibility is taken without a draw. -/
@[simp] theorem pick_singleton {α : Type} (a : α) (s : State) : pick [a] s = some (a, s) := rfl

/-- An order of listed things holds only such things and takes nothing but draws. -/
theorem shuffle_spec {α : Type} (n : Nat) (xs : List α) (s : State) :
    (∀ x ∈ (shuffle n xs s).1, x ∈ xs) ∧ DrawsFrom s (shuffle n xs s).2 := by
  induction n generalizing xs s with
  | zero => exact ⟨fun x hx => hx, .refl _⟩
  | succ n ih =>
    rw [shuffle]
    split
    · exact ⟨by simp, .refl _⟩
    · rename_i x i s' hp
      obtain ⟨hm, hd⟩ := pick_some hp
      obtain ⟨h1, h2⟩ := ih (xs.eraseIdx i) s'
      refine ⟨fun y hy => ?_, hd.trans h2⟩
      rcases List.mem_cons.1 hy with rfl | hy
      · exact (List.mem_zipIdx' hm).2 ▸ List.getElem_mem _
      · exact List.mem_of_mem_eraseIdx (h1 y hy)

theorem writeOrder_spec (ps : List Placed) (s : State) :
    (∀ x ∈ (writeOrder ps s).1, x ∈ ps) ∧ DrawsFrom s (writeOrder ps s).2 := by
  unfold writeOrder
  split
  · exact ⟨fun x hx => hx, .refl _⟩
  · exact shuffle_spec _ _ _

/-- What WRITE stores: the elements of the tile with a destination below PADDED_SIZE (10_state.md R34). -/
theorem mem_stored {c : Config} {run : ScatterRun} {g : ScatterGroup} {x : Placed} :
    x ∈ stored c run g ↔ x ∈ placements c g ∧ x.index < run.size := by
  simp [stored]

/-- With PADDED_SIZE inside the buffers every store of WRITE passes the guard. -/
theorem guardSpace_stored {s : State} {sp : Space} {run : ScatterRun} {g : ScatterGroup} {k : Result}
    (h : run.size ≤ spaceWords s.cfg sp) : guardSpace s sp ((stored s.cfg run g).map Placed.index) k = k := by
  refine guardSpace_inside fun i hi => ?_
  obtain ⟨x, hx, rfl⟩ := List.mem_map.1 hi
  exact (mem_stored.1 hx).2.trans_le h

/-! ## Coherent loads -/

theorem versions_place_lt {vs : List Word} {x : Nat × Word} (h : x ∈ versions vs) : x.1 < vs.length := by
  induction vs with
  | nil => simp [versions] at h
  | cons v older ih =>
    rcases List.mem_cons.1 h with rfl | h
    · simp
    · have := ih h
      simp only [List.length_cons]
      omega

theorem versions_value_mem {vs : List Word} {x : Nat × Word} (h : x ∈ versions vs) : x.2 ∈ vs := by
  induction vs with
  | nil => simp [versions] at h
  | cons v older ih =>
    rcases List.mem_cons.1 h with rfl | h
    · simp
    · exact List.mem_cons_of_mem _ (ih h)

/-- A coherent load answers a value of the word's coherence order, no older than what was read before, and takes
nothing but draws (20_memory.md R71). -/
theorem loadCoherent_spec {cur : Word} {older : List Word} {seen : Nat} {s : State} (h : seen ≤ older.length) :
    seen ≤ (loadCoherent cur older seen s).1 ∧ (loadCoherent cur older seen s).1 ≤ older.length
      ∧ (loadCoherent cur older seen s).2.1 ∈ cur :: older
      ∧ DrawsFrom s (loadCoherent cur older seen s).2.2 := by
  unfold loadCoherent
  split
  · rename_i n v s' hp
    obtain ⟨hm, hd⟩ := pick_some hp
    obtain ⟨hv, hs⟩ := List.mem_filter.1 hm
    exact ⟨by simpa using hs, by have := versions_place_lt hv; simp at this; omega, versions_value_mem hv, hd⟩
  · exact ⟨h, le_refl _, by simp, .refl _⟩

theorem loadCoherent_draws (cur : Word) (older : List Word) (seen : Nat) (s : State) :
    DrawsFrom s (loadCoherent cur older seen s).2.2 := by
  unfold loadCoherent
  split
  · rename_i n v s' hp
    exact (pick_some hp).2
  · exact .refl _

/-- A word nobody has stored to in this dispatch reads as what it holds. -/
theorem loadCoherent_unwritten (cur : Word) (s : State) : loadCoherent cur [] 0 s = (0, cur, s) := rfl

/-! ## A move and a run -/

theorem engineAgents_nonempty {s : State} {e : Executing} (h : s.executing = some e) : engineAgents s ≠ [] := by
  unfold engineAgents
  rw [h]
  simp only
  split
  · simp
  · rename_i hne
    intro hnil
    exact hne hnil

/-- A move of a state in which command e executes is a move of an agent that can move, after nothing but draws. -/
theorem dispatchMove_next {s t : State} {e : Executing} (he : s.executing = some e)
    (h : dispatchMove e s = .next t) :
    ∃ a s', a ∈ enabledAgents s ∧ DrawsFrom s s' ∧ agentMove e a s' = .next t := by
  unfold dispatchMove at h
  have hne : enabledAgents s ≠ [] := by
    unfold enabledAgents
    intro hnil
    exact engineAgents_nonempty he (List.append_eq_nil_iff.1 hnil).1
  obtain ⟨a, s', hp⟩ := pick_isSome hne s
  rw [hp] at h
  obtain ⟨hm, hd⟩ := pick_some hp
  exact ⟨a, s', hm, hd, h⟩

/-- What every move keeps, a run keeps. -/
theorem runMoves_keeps {P : State → Prop}
    (hP : ∀ s e t, s.executing = some e → P s → dispatchMove e s = .next t → P t)
    {n : Nat} {s t : State} (hs : P s) (h : runMoves n s = .next t) : P t := by
  induction n generalizing s with
  | zero =>
    simp only [runMoves, Host.Outcome.next.injEq] at h
    exact h ▸ hs
  | succ n ih =>
    rw [runMoves] at h
    split at h
    · simp only [Host.Outcome.next.injEq] at h
      exact h ▸ hs
    · rename_i e he
      split at h
      · rename_i s' hm
        exact ih (hP s e s' he hs hm) h
      · simp at h
      · simp at h

/-- With no command executing a run is over. -/
theorem runMoves_idle {s : State} (h : s.executing = none) (n : Nat) : runMoves n s = .next s := by
  cases n with
  | zero => rfl
  | succ n => simp [runMoves, h]

/-- The sequencer with a decoded command: discarded, or run with legal sizes (44_orchestrator.md R225). -/
theorem runCommand_next {acc : Bool} {start : State → State} {s t : State}
    (h : runCommand acc start s = .next t) :
    (acc = false ∧ t = discard s) ∨ (acc = true ∧ sizesLegal s = true ∧ runToEnd (start s) = .next t) := by
  unfold runCommand at h
  by_cases ha : acc = true
  · simp only [ha, if_true] at h
    by_cases hz : sizesLegal s = true
    · simp only [hz, if_true] at h
      exact .inr ⟨ha, hz, h⟩
    · simp [hz] at h
  · simp only [ha] at h
    have : acc = false := by simpa using ha
    simp at h
    exact .inl ⟨this, h.symm⟩

/-- What a step can be. -/
theorem step_next {s t : State} (h : step s = .next t) :
    (∃ e, s.executing = some e ∧ dispatchMove e s = .next t)
      ∨ (s.executing = none ∧ t = s)
      ∨ (s.executing = none ∧ ∃ s', DrawsFrom s s' ∧ hostReady s = true ∧ hostMove s' = .next t)
      ∨ (s.executing = none ∧ ∃ s', DrawsFrom s s' ∧ s.queue ≠ [] ∧ sequencerMove s' = .next t) := by
  unfold step idleMove at h
  split at h
  · rename_i e he
    exact .inl ⟨e, he, h⟩
  · rename_i he
    split at h
    · simp only [Host.Outcome.next.injEq] at h
      exact .inr (.inl ⟨he, h.symm⟩)
    · rename_i s' hp
      obtain ⟨hm, hd⟩ := pick_some hp
      refine .inr (.inr (.inl ⟨he, s', hd, ?_, h⟩))
      unfold enabledAgents engineAgents at hm
      rw [he] at hm
      by_contra hr
      simp only [hr] at hm
      split at hm <;> simp at hm
    · rename_i a s' hnh hp
      obtain ⟨hm, hd⟩ := pick_some hp
      refine .inr (.inr (.inr ⟨he, s', hd, ?_, h⟩))
      intro hq
      unfold enabledAgents engineAgents at hm
      rw [he] at hm
      simp only [hq, List.isEmpty_nil, if_true, List.nil_append] at hm
      split at hm
      · simp only [List.mem_singleton] at hm
        exact hnh hm
      · simp at hm

/-- The sequencer's move on a word that decodes to a command is that command. -/
theorem sequencerMove_decoded {s : State} {c : Word} {rest : List Word} {i : Instr} (hq : s.queue = c :: rest)
    (hd : decode c = .ok i) : sequencerMove s = exec i { s with queue := rest } := by
  simp [sequencerMove, fetch, hq, hd]

end Sys2Proof.Machine
end

