-- ==== Sys2Proof/Laws/PerInstr.lean ====
section
/-! SUPPORT. A statement about every command as syntax, with one lemma per command. -/

namespace Sys2Proof.Laws.CommandWord

/-- The command is well formed, and its word has RSV 0 and the command's OPC (30_encoding.md R90, R91). -/
def Statement (i : Instr) : Prop :=
  i.wellFormed = true ∧ rsvField (encode i) = 0 ∧ opcField (encode i) = opcodeOf i

theorem zero : Statement .zero := by unfold Statement; decide
theorem histogram : Statement .histogram := by unfold Statement; decide
theorem prefixScan : Statement .prefixScan := by unfold Statement; decide
theorem scatterEven : Statement .scatterEven := by unfold Statement; decide
theorem scatterOdd : Statement .scatterOdd := by unfold Statement; decide

end Sys2Proof.Laws.CommandWord
end

