-- ==== Sys2Proof/Tests/Slice0.lean ====
section
/-! SUPPORT. The author's own tests: vectors of spec/95_test_vectors.md and rules of the spec on small states, and for
every obligation with hypotheses a state that meets them (test_witness_<its name>). -/

namespace Sys2Proof.Tests

open Sys2Proof Sys2Proof.Machine

/-! ## Helpers -/

/-- The state a step answers satisfies f. -/
def after (r : Result) (f : State → Bool) : Bool :=
  match r with
  | .next t => f t
  | .fault _ => false
  | .refused _ => false

theorem next_of_after {r : Result} {f : State → Bool} (h : after r f = true) : ∃ t, r = .next t ∧ f t = true := by
  cases r with
  | next t => exact ⟨t, rfl, h⟩
  | fault _ => cases h
  | refused _ => cases h

/-- The step is refused with this name. -/
def refusedAs (r : Result) (x : Refusal) : Bool :=
  match r with
  | .refused y => y == x
  | _ => false

/-- n words with every byte 0xFF: the keys are all SENTINEL. -/
def allOnes (n : Nat) : Memory := (List.range (4 * n)).map fun a => (a, 0xFF)

/-- One lane and one element per workgroup, one element in each buffer: T_h = T_s = CAP = 1. -/
def tiny : Config :=
  { Config.reference with
    histWgSize := 1, histBlockRows := 1, scatterWgSize := 1, subgroupSize := 1, cap := 1
    baseKeysB := 4, basePayA := 8, basePayB := 12, baseHist := 16 }

/-- A state of the P1 parameters with these phase and pass counters, no elements. -/
def at_ (ph : Phase) (even odd : Word) : State :=
  { State.reset with phase := ph, evenPass := even, oddPass := odd }

/-- The P1 parameters, every key SENTINEL: 8 elements, 2 partitions, ready for pass 0. -/
def readyEven : State := { at_ .scanned 0 0 with numKeys := 8, paddedSize := 8, keysA := allOnes 8 }

/-- The same before pass 1: the partition words of pass 0 carry its Prefix tag. -/
def readyOdd : State :=
  { at_ .scanned 1 0 with
    numKeys := 8, paddedSize := 8, keysB := allOnes 8
    hist := (List.range 512).map fun i => (4 * (1024 + i) + 3, 0x80) }

/-! ## Well-formedness -/

theorem test_reference_wf : Config.reference.wf = true ∧ tiny.wf = true := by decide
theorem test_wf_refuses_empty_workgroup : ({ Config.reference with histWgSize := 0 } : Config).wf = false
    ∧ ({ Config.reference with histBlockRows := 0 } : Config).wf = false
    ∧ ({ Config.reference with scatterWgSize := 0 } : Config).wf = false
    ∧ ({ Config.reference with scatterBlockRows := 0 } : Config).wf = false := by decide
theorem test_wf_refuses_subgroup : ({ Config.reference with subgroupSize := 3 } : Config).wf = false
    ∧ ({ Config.reference with subgroupSize := 0 } : Config).wf = false := by decide
theorem test_wf_refuses_cap : ({ Config.reference with cap := 7 } : Config).wf = false
    ∧ ({ Config.reference with cap := 0x40000000 } : Config).wf = false := by decide
theorem test_wf_refuses_queue : ({ Config.reference with queueDepth := 0 } : Config).wf = false := by decide
/-- No command carries an operand, so there is no ill-formed command: every one is well formed (R94). -/
theorem test_wf_commands : ∀ i : Instr, i.wellFormed = true := by intro i; cases i <;> rfl

/-! ## Decoding: V-C1 to V-C10, and the words as bytes in memory order (R61, R91) -/

theorem test_decode_zero : decodeBytes [0x01, 0x00, 0x00, 0x00] = some (.ok .zero, []) := by decide
theorem test_decode_histogram : decodeBytes [0x02, 0x00, 0x00, 0x00] = some (.ok .histogram, []) := by decide
theorem test_decode_prefix : decodeBytes [0x03, 0x00, 0x00, 0x00] = some (.ok .prefixScan, []) := by decide
theorem test_decode_scatter_even : decodeBytes [0x04, 0x00, 0x00, 0x00, 0x05] = some (.ok .scatterEven, [0x05]) := by
  decide
theorem test_decode_scatter_odd : decodeBytes [0x05, 0x00, 0x00, 0x00] = some (.ok .scatterOdd, []) := by decide
theorem test_decode_bits : decode 0b00000000000000000000000000000100 = .ok .scatterEven
    ∧ decode 0b00000000000000000000000000000011 = .ok .prefixScan := by decide
theorem test_decode_illegal : decode 0x00000000 = .error .noSuchOpcode ∧ decode 0x00000006 = .error .noSuchOpcode
    ∧ decode 0x000000FF = .error .noSuchOpcode ∧ decode 0x00000101 = .error .reservedNotZero
    ∧ decode 0x80000002 = .error .reservedNotZero := by decide
theorem test_decode_short : decodeBytes [0x01, 0x00, 0x00] = none := by decide
theorem test_decode_table_word : decodeTableWord 32 4 = some .scatterEven ∧ decodeTableWord 32 0x104 = none := by decide

/-! ## Digits: V-D1 to V-D9; partition words: V-W1 to V-W11 -/

theorem test_digits : digit 0x12345678 0 = 0x78 ∧ digit 0x12345678 3 = 0x12 ∧ digit 0x80000001 0 = 0x01
    ∧ digit 0x80000001 3 = 0x80 ∧ digit 0x00000102 1 = 0x01 ∧ digit 0xFFFFFFFF 3 = 0xFF ∧ digit 0 2 = 0 := by decide
theorem test_psw : psw 0 0 = 0 ∧ psw 1 5 = 0x40000005 ∧ psw 2 0x3FFFFFFF = 0xBFFFFFFF ∧ psw 3 0 = 0xC0000000
    ∧ psw 2 3 = 0x80000003 := by decide
theorem test_status_even : status 0 0 = (.invalid, 0) ∧ status 0x40000003 2 = (.aggregate, 3)
    ∧ status 0x80000007 0 = (.inclusive, 7) ∧ status 0xC0000002 2 = (.foreign, 2)
    ∧ status 0xFFFFFFFF 0 = (.foreign, 0x3FFFFFFF) ∧ status 4 2 = (.invalid, 4) := by decide
theorem test_status_odd : status 0 1 = (.inclusive, 0) ∧ status 0x40000003 3 = (.foreign, 3)
    ∧ status 0x80000007 1 = (.invalid, 7) ∧ status 0xC0000002 3 = (.aggregate, 2)
    ∧ status 0xFFFFFFFF 1 = (.aggregate, 0x3FFFFFFF) ∧ status 4 3 = (.inclusive, 4) := by decide

/-! ## Memory -/

theorem test_little_endian : Memory.writeWord [] 1 0x11223344 = [(4, 0x44), (5, 0x33), (6, 0x22), (7, 0x11)] := by decide
theorem test_write_unlisted_value_removes : Memory.writeWord [(3, 1), (5, 2), (8, 9)] 1 0 = [(3, 1), (8, 9)]
    ∧ Memory.readWord [(3, 1), (5, 2), (8, 9)] 1 = 0x200 := by decide
theorem test_memory_wf : Memory.wf [(0, 1), (2, 5)] = true ∧ Memory.wf [(2, 5), (0, 1)] = false
    ∧ Memory.wf [(2, 5), (2, 1)] = false ∧ Memory.wf [(2, 0)] = false := by decide
theorem test_reset_memory_wf : State.reset.memOk = true := by decide
theorem test_atomic_add_wraps : atomicAdd [(0, 0xFF), (1, 0xFF), (2, 0xFF), (3, 0xFF)] 0 2 = [(0, 1)] := by decide

/-! ## STATUS (V-O3), the registers and the host -/

theorem test_status_words : statusWord State.reset = 0
    ∧ statusWord { at_ .scanned 0 0 with executing := some (.zero 0 false) } = 0x7
    ∧ statusWord (at_ .sorted 2 2) = 0x8
    ∧ statusWord { at_ .zeroed 0 0 with cmdErr := true } = 0x12 := by decide
theorem test_host_size_write_clears_phase : -- V-O6
    after (hostWrite (at_ .sorted 2 2) .registers 0 4 7) (fun t => t.numKeys == 7 && t.phase == .unprepared) = true := by
  decide
theorem test_host_command_word_queues :
    after (hostMove { State.reset with host := [opCommand .scatterOdd] }) (fun t => t.queue == [5] && t.host == [])
      = true := by decide
theorem test_host_reads : after (hostRead { State.reset with queue := [1], cmdErr := true } .registers 0x18 4)
    (fun t => t.reads == [0x11]) = true ∧ after (hostRead { State.reset with keysA := [(5, 1)] } (.space .keysA) 4 4)
    (fun t => t.reads == [0x100]) = true := by decide
/-- The eight duties of R290, in its order. -/
theorem test_host_duties :
    refusedAs (hostWrite { State.reset with queue := [1] } .registers 0x04 4 0) .sizeWriteWhileBusy = true
    ∧ refusedAs (hostRead { State.reset with queue := [1] } .registers 0x10 4) .registerReadWhileBusy = true
    ∧ refusedAs (hostRead { State.reset with queue := [1] } (.space .hist) 0 4) .bufferAccessWhileBusy = true
    ∧ refusedAs (hostWrite { State.reset with queue := List.replicate 7 1 } .registers 0x14 4 1) .queueFull = true
    ∧ refusedAs (hostWrite State.reset .registers 0x10 4 0) .readOnlyRegister = true
    ∧ refusedAs (hostRead State.reset .registers 0x1C 4) .reservedOffset = true
    ∧ refusedAs (hostRead State.reset .registers 0x02 4) .notOneAlignedWord = true
    ∧ refusedAs (hostWrite State.reset (.space .payB) 32 4 0) .hostIndexOutOfSpace = true := by decide
theorem test_sort_listing : opsSort 7 = (sortCommands.map opCommand) ++ [.wait]
    ∧ opsSort 6 = ((sortCommands.take 6).map opCommand) ++ [.wait, opCommand .scatterOdd, .wait] := by decide

/-! ## The sequencer -/

/-- V-O4: commands out of sequence are discarded. -/
theorem test_discards :
    after (exec .histogram State.reset) (· == { State.reset with cmdErr := true }) = true
    ∧ after (exec .prefixScan (at_ .zeroed 0 0)) (· == { at_ .zeroed 0 0 with cmdErr := true }) = true
    ∧ after (exec .scatterOdd (at_ .scanned 0 0)) (· == { at_ .scanned 0 0 with cmdErr := true }) = true
    ∧ after (exec .scatterEven (at_ .scanned 1 0)) (· == { at_ .scanned 1 0 with cmdErr := true }) = true
    ∧ after (exec .scatterEven (at_ .sorted 2 2)) (· == { at_ .sorted 2 2 with cmdErr := true }) = true := by decide
theorem test_capacity_refused : refusedAs (exec .zero { State.reset with numKeys := 5, paddedSize := 4 }) .capacity = true
    ∧ refusedAs (exec .zero { State.reset with paddedSize := 6 }) .capacity = true
    ∧ refusedAs (exec .zero { State.reset with paddedSize := 12 }) .capacity = true := by decide
theorem test_fetch_word_runs (w : Nat) (h : w = 1 ∨ w = 2 ∨ w = 3 ∨ w = 4 ∨ w = 5) :
    step (State.reset.withFetchWord 32 w) = match decodeTableWord 32 w with
      | some i => exec i State.reset
      | none => .refused .capacity := by
  rcases h with rfl | rfl | rfl | rfl | rfl <;> rfl
theorem test_illegal_word_discarded :
    after (step { State.reset with queue := [0x104, 1] }) (· == { State.reset with queue := [1], cmdErr := true })
      = true := by decide
/-- V-O1 and V-O5: ZERO in the middle of a sort leaves the registers so, and the keys of B stay. -/
theorem test_zero_mid_sort :
    after (exec .zero { at_ .scanned 1 0 with sortFailed := 1, cmdErr := true, keysB := [(0, 3)] })
      (fun t => { t with hist := [] } == { at_ .zeroed 0 0 with keysB := [(0, 3)] }) = true := by decide +kernel
/-- A READ of STATUS between ZERO's writes and its completion: CMD_ERR is 0, PHASE still 3, BUSY 1 (R221). -/
theorem test_status_during_zero :
    after (dispatchMove (.zero 0 false) { at_ .scanned 1 0 with cmdErr := true, executing := some (.zero 0 false) })
      (fun t => statusWord t == 0x07 && t.evenPass == 0 && t.executing == some (.zero 0 true)
        && after (dispatchMove (.zero 0 true) t) (fun u => statusWord u == 0x02)) = true := by decide +kernel
/-- V-O1: ZERO's stores are 0 to the words 0 .. 1535. -/
theorem test_zero_stores : (zeroStores Config.reference 8).length = 1536
    ∧ (zeroStores Config.reference 8).all (fun x => x.2 == 0 && x.1 < 1536) = true
    ∧ Memory.writeWords [(1, 5), (7, 1), (12, 2)] [(0, 0), (1, 0)] = [(12, 2)] := by decide +kernel

/-! ## HISTOGRAM and PREFIX -/

/-- LOAD of the second workgroup of V-H1: key 4, then three positions of padding (R131, R133). -/
theorem test_histogram_load :
    let g : HistGroup := { phase := .load, kv := [0, 0, 0, 0], acc := [] }
    after (histGroupMove { numKeys := 5, size := 8, groups := [g, g] } 1 g
        { State.reset with keysA := [(16, 4), (20, 9)] })
      (fun t => t.keysA == (16, 4) :: (allOnes 3).map (fun c => (c.1 + 20, c.2))
        && t.executing == some (.histogram ⟨5, 8, [g, ⟨.count 0, [4, Config.sentinel, Config.sentinel, Config.sentinel], []⟩]⟩))
      = true := by decide +kernel
/-- The rows of V-H1, bucket by bucket, and the adds of a row (R132). -/
theorem test_histogram_counts :
    ([1, 3, 4, 5, 6, 255].map (digitCount [5, 3, 5, 1, 4, Config.sentinel, Config.sentinel, Config.sentinel] 0))
      = [1, 1, 1, 2, 0, 3]
    ∧ digitCount [5, 3, 5, 1, 4, Config.sentinel, Config.sentinel, Config.sentinel] 3 0 = 5
    ∧ addRow [(1028, 3)] 1 (0 :: 2 :: List.replicate 254 0) = [(1028, 5)] := by decide +kernel
/-- The scan schedule of R152 on eight words. -/
theorem test_blelloch : blellochScan 3 [3, 1, 7, 0, 4, 1, 6, 3] = [0, 3, 4, 11, 11, 15, 16, 22] := by decide
/-- The low sixteen buckets of V-P1, scanned as an array of sixteen. -/
theorem test_blelloch_row :
    blellochScan 4 [0, 1, 0, 1, 1, 2, 0, 0, 0, 0, 0, 0, 0, 0, 0, 3] = [0, 0, 1, 1, 2, 3, 5, 5, 5, 5, 5, 5, 5, 5, 5, 5] := by
  decide

/-! ## The scatter: single moves, and one whole pass of one element -/

/-- The sort of R175: ranks and counts of the first tile of V-S1. -/
theorem test_ranks : tileRanks (tileDigits 0 [5, 3, 5, 1]) = [1, 1, 2, 1]
    ∧ ([1, 3, 5, 7].map fun d => digitCount [5, 3, 5, 1] 0 d) = [1, 1, 2, 0] := by decide

/-- A workgroup with one lane (digit 0) in look-back. -/
def walkingGroup (l : Lane) (count : Word) : ScatterGroup :=
  { phase := .lookback, kv := [], pv := [], kr := [], digits := [], counts := [count], excl := [0],
    scatterFailed := false, lanes := [l] }

/-- A walking lane at a slot. -/
def walker (cursor retries : Nat) (acc : Word) : Lane :=
  { laneStart 1 with lstate := .walking, cursor := cursor, retries := retries, acc := acc }

/-- Three workgroups; the last one, with lane l, is the one that polls. -/
def pollRun (pass : Nat) (l : Lane) : ScatterRun :=
  { pass := pass, size := 8, failedOlder := []
    groups := [walkingGroup (laneStart 0) 0, walkingGroup (laneStart 1) 0, walkingGroup l 1] }

/-- A state of T_s = 2 (three partitions or more) with slot 0 and slot 1 of digit 0 holding these words. -/
def pollState (failed slot0 slot1 : Word) : State :=
  let s := { State.resetFor { Config.reference with scatterWgSize := 2, subgroupSize := 2 } with sortFailed := failed }
  storeWord (storeWord s .hist (pidx 0 0) slot0) .hist (pidx 1 0) slot1

/-- One poll of lane (2, 0). -/
def pollOnce (pass : Nat) (l : Lane) (s : State) : Result :=
  poll (pollRun pass l) 2 0 (walkingGroup l 1) l { s with executing := some (.scatter (pollRun pass l)) }

/-- The lane and its workgroup after a poll. -/
def pollLane (t : State) : Option (LaneState × Nat × Nat × Word × Bool) :=
  match t.executing with
  | some (.scatter run) =>
    match run.groups[2]? with
    | none => none
    | some g =>
      match g.lanes[0]? with
      | none => none
      | some l => some (l.lstate, l.cursor, l.retries, l.acc, g.scatterFailed)
  | _ => none

/-- V-S3: an Aggregate at slot 1, then the Prefix at slot 0; the lane publishes 0x80000004 here (its count is 1). -/
theorem test_poll_advances :
    after (pollOnce 0 (walker 1 2 0) (pollState 0 0x80000002 0x40000001))
      (fun t => pollLane t == some (.walking, 0, 0, 1, false)) = true := by decide +kernel
theorem test_poll_resolves :
    after (pollOnce 0 (walker 0 0 1) (pollState 0 0x80000002 0x40000001))
      (fun t => pollLane t == some (.resolved, 0, 0, 3, false) && loadWord t .hist (pidx 2 0) == 0x80000004) = true := by
  decide +kernel
/-- V-S6: a Foreign tag, and an Aggregate at slot 0, are not ready. -/
theorem test_poll_not_ready :
    after (pollOnce 0 (walker 0 0 1) (pollState 0 0xC0000000 0)) (fun t => pollLane t == some (.walking, 0, 1, 1, false))
      = true ∧
    after (pollOnce 0 (walker 0 0 1) (pollState 0 0x40000000 0)) (fun t => pollLane t == some (.walking, 0, 1, 1, false))
      = true := by decide +kernel
/-- V-S7 and the third poll of V-S8 (SPIN_BUDGET 2). -/
theorem test_poll_aborts_and_fails :
    after (pollOnce 0 (walker 1 0 0) (pollState 1 0 0x40000001))
      (fun t => pollLane t == some (.aborted, 1, 0, 0, true) && t.sortFailed == 1) = true ∧
    after (pollOnce 0 (walker 1 2 0) (pollState 0 0 0))
      (fun t => pollLane t == some (.failed, 1, 3, 0, true) && t.sortFailed == 1) = true := by decide +kernel
/-- WRITE places by base, rank and digit (R189): digit 5 at base 3, digit 1 at base 0. -/
theorem test_scatter_write :
    after (scatterWrite { pass := 1, size := 8, groups := [], failedOlder := [] } 0
        { walkingGroup (laneStart 0) 0 with
          kv := [5, 1, 5, 1], pv := [10, 11, 12, 13], kr := [1, 1, 2, 2], digits := [5, 1, 5, 1], excl := [9, 0, 0, 0, 0, 3] }
        State.reset)
      (fun t => (List.range 8).map (loadWord t .keysA) == [1, 1, 0, 5, 5, 0, 0, 0]
        && (List.range 8).map (loadWord t .payA) == [11, 13, 0, 10, 12, 0, 0, 0] && t.keysB == []) = true := by
  decide +kernel

/-- An element whose destination is PADDED_SIZE or above is not stored (R34, R67): digit 5 at base 3, PADDED_SIZE 4. -/
theorem test_scatter_write_in_bounds :
    after (scatterWrite { pass := 0, size := 4, groups := [], failedOlder := [] } 0
        { walkingGroup (laneStart 0) 0 with
          kv := [5, 1, 5, 1], pv := [10, 11, 12, 13], kr := [1, 1, 2, 2], digits := [5, 1, 5, 1], excl := [9, 0, 0, 0, 0, 3] }
        State.reset)
      (fun t => (List.range 8).map (loadWord t .keysB) == [1, 1, 0, 5, 0, 0, 0, 0]
        && (List.range 8).map (loadWord t .payB) == [11, 13, 0, 10, 0, 0, 0, 0]) = true := by
  decide +kernel

/-- V-S12: with no element a scatter only counts (R202). -/
theorem test_scatter_nothing :
    after (exec .scatterOdd (at_ .scanned 2 1)) (· == { at_ .sorted 2 2 with fresh := 1 }) = true := by decide

/-! ## Witnesses: for every obligation with hypotheses, a state and operands that meet them -/

theorem test_witness_EncodedCommandDecodes : Instr.scatterOdd.wellFormed = true := rfl

theorem test_witness_DecodingIsTotalOnFiveWords :
    (0x80000002 : Word).toNat / 256 ≠ 0 ∧ (0x100 : Word).toNat / 256 ≠ 0 ∧
    (∀ n < 256, (BitVec.ofNat 32 n).toNat / 256 = 0) ∧ (0 : Word).toNat % 256 = 0 ∧ (1 : Word).toNat % 256 = 1 ∧
    (5 : Word).toNat % 256 = 5 ∧ 6 ≤ (6 : Word).toNat % 256 ∧ 6 ≤ (255 : Word).toNat % 256 ∧
    decode 5 = .ok .scatterOdd := by decide +kernel

theorem test_witness_IllegalWordOnlySetsCmdErr :
    let s : State := { State.reset with queue := [0x104, 0, 6, 0xFF] }
    s.executing = none ∧ s.queue = 0x104 :: [0, 6, 0xFF] ∧ hostReady s = false ∧ (0x104 : Word).toNat / 256 ≠ 0
      ∧ (0 : Word).toNat % 256 = 0 ∧ 6 ≤ (6 : Word).toNat % 256 := by decide

theorem test_witness_StatusWordHoldsTagAndCount : (0x3FFFFFFF : Word).toNat ≤ Config.countMax := by decide

theorem test_witness_StatusWordDecodesByParity :
    (0x3FFFFFFF : Word).toNat / 2 ^ 30 = 0 ∧ (0x40000000 : Word).toNat / 2 ^ 30 = 1
      ∧ (0xBFFFFFFF : Word).toNat / 2 ^ 30 = 2 ∧ (0xFFFFFFFF : Word).toNat / 2 ^ 30 = 3 ∧ 0 % 2 = 0 ∧ 3 % 2 = 1 := by
  decide

theorem test_witness_RotatedTagsHideThePassBefore : (0x3FFFFFFF : Word).toNat ≤ Config.countMax := by decide

theorem test_witness_DigitIsTheByteOfThePass : 3 < 4 ∧ digit 0x80000001 3 = 0x80 := by decide

theorem test_witness_ResetEventAbandonsTheCommand :
    ({ readyEven with executing := some (.zero 8 false), queue := [1], host := [.reset, .wait] } : State).host
      = .reset :: [.wait] := rfl

theorem test_witness_AccessSideEffects :
    (∃ t, hostRead State.reset .registers 0x18 4 = .next t) ∧
    ({ State.reset with queue := List.replicate 6 1 } : State).queue.length < State.reset.cfg.queueDepth ∧
    busy State.reset = false ∧ 7 < spaceWords State.reset.cfg .payB ∧ 1535 < spaceWords State.reset.cfg .hist ∧
    busy readyEven = false ∧ Memory.wf (memOf readyEven .keysA) = true :=
  ⟨⟨_, rfl⟩, by decide, by decide, by decide, by decide, by decide, by decide⟩

theorem test_witness_HostReadsBackWhatItWrote :
    busy readyEven = false ∧ readyEven.memOk = true ∧ 7 < spaceWords readyEven.cfg .keysA ∧
      1535 < spaceWords readyEven.cfg .hist ∧ 0 < spaceWords readyEven.cfg .keysA := by decide

theorem test_witness_HostDutiesAreWhatIsRefused :
    dutyBroken { State.reset with queue := [1] } (opWrite .numKeys 5) = true ∧
    dutyBroken { State.reset with queue := [1] } (opRead .cmd) = true ∧
    dutyBroken { State.reset with queue := [1] } (opMRead .hist 0) = true ∧
    dutyBroken { State.reset with queue := List.replicate 7 1 } (opWrite .cmd 1) = true ∧
    dutyBroken State.reset (opWrite .status 0) = true ∧ dutyBroken State.reset (.read .registers 0x1C 4) = true ∧
    dutyBroken State.reset (.read .registers 0x04 2) = true ∧ dutyBroken State.reset (opMWrite .keysA 8 0) = true ∧
    dutyBroken State.reset (opMWrite .keysA 7 0) = false ∧ dutyBroken State.reset (opRead .status) = false ∧
    busy State.reset = false := by decide

theorem test_witness_BusyHostOnlyReadsStatusOrQueues :
    let s (op : HostOp) : State := { State.reset with queue := List.replicate 6 1, host := [op] }
    (∀ op ∈ [HostOp.reset, opRead .status, opWrite .cmd 5],
      busy (s op) = true ∧ hostReady (s op) = true ∧ after (hostMove (s op)) (fun _ => true) = true) ∧
    (s .wait).host = .wait :: [] ∧ busy (s .wait) = true ∧ busy { State.reset with host := [.wait] } = false := by
  decide

theorem test_witness_StepRunsTheDecodedCommand :
    let s : State := { State.reset with queue := [1, 2] }
    let r (n : Nat) : State := { s with host := [opRead .status], sched := [n, 5] }
    s.executing = none ∧ s.queue = 1 :: [2] ∧ decode 1 = .ok .zero ∧ Instr.zero.wellFormed = true ∧ hostReady s = false
      ∧ hostReady (r 0) = true ∧ (r 0).sched = 0 :: [5] ∧ hostReady (r 1) = true ∧ (r 1).sched = 1 :: [5] := by decide

theorem test_witness_IllegalSizesAreRefused :
    (readyEven.paddedSize.toNat < ({ readyEven with numKeys := 9 } : State).numKeys.toNat) ∧
    (readyEven.cfg.cap < ({ readyEven with paddedSize := 12 } : State).paddedSize.toNat) ∧
    (({ readyEven with paddedSize := 6 } : State).paddedSize.toNat % readyEven.cfg.tileS ≠ 0) ∧
    spacesDisjoint { readyEven.cfg with baseHist := 124 } = false ∧
    histogramAccepted (at_ .zeroed 0 0) = true ∧ prefixAccepted (at_ .histogrammed 0 0) = true ∧
    scatterEvenAccepted (at_ .scanned 1 1) = true ∧ scatterOddAccepted (at_ .scanned 2 1) = true := by decide

/-- Steps that change PHASE to each value the table lists, from states that meet the invariant. -/
theorem test_witness_PhaseChangesOnlyAsListed :
    let s : List (State × Phase) :=
      [({ at_ .sorted 2 2 with host := [opWrite .numKeys 3] }, .unprepared),
       ({ at_ .sorted 2 2 with host := [opWrite .paddedSize 4] }, .unprepared),
       ({ at_ .scanned 1 0 with executing := some (.zero 4 false), host := [.reset], sched := [1] }, .unprepared),
       ({ at_ .sorted 2 2 with queue := [1] }, .zeroed),
       ({ at_ .scanned 0 0 with executing := some (.zero 4 true) }, .zeroed), ({ at_ .zeroed 0 0 with queue := [2] }, .histogrammed),
       ({ at_ .histogrammed 0 0 with executing := some (.scan []) }, .scanned),
       ({ at_ .scanned 2 1 with queue := [5] }, .sorted)]
    ∀ x ∈ s, x.1.inv = true ∧ after (step x.1) (fun t => t.phase == x.2) = true ∧ x.2 ≠ x.1.phase := by
  decide +kernel

theorem test_witness_ExecutingCommandDequeuesNothing :
    let s : State := { readyEven with queue := [2], executing := some (.zero 8 false), sched := [1] }
    (∃ t, dispatchMove (.zero 8 false) { s with host := [opWrite .cmd 3] } = .next t ∧ t.queue = [2, 3]) ∧
    (∃ t, dispatchMove (.zero 8 false) { s with host := [.reset] } = .next t ∧ t.queue = []) :=
  ⟨⟨_, rfl, rfl⟩, _, rfl, rfl⟩

theorem test_witness_ScatterCompletionCountsThePass :
    (∃ t, exec .scatterEven (at_ .scanned 1 1) = .next t) ∧ scatterEvenAccepted (at_ .scanned 1 1) = true ∧
    (∃ t, exec .scatterOdd (at_ .scanned 1 0) = .next t) ∧ scatterOddAccepted (at_ .scanned 1 0) = true ∧
    (∃ t, exec .scatterOdd (at_ .scanned 2 1) = .next t) ∧ scatterOddAccepted (at_ .scanned 2 1) = true ∧
    (at_ .scanned 1 1).host = [] ∧ (at_ .scanned 1 1).executing = none :=
  ⟨⟨_, rfl⟩, by decide, ⟨_, rfl⟩, by decide, ⟨_, rfl⟩, by decide, rfl, rfl⟩

theorem test_witness_EveryStepKeepsTheInvariant :
    let s : State := { readyOdd with queue := [2, 7] }
    s.inv = true ∧ ∃ t, step s = .next t ∧ t.cmdErr = true := ⟨by decide +kernel, _, rfl, rfl⟩

theorem test_witness_ParametersNeverChange : ∃ t, step State.reset = .next t := ⟨_, rfl⟩

/-- One element and one partition, its scatter just started: the only move is the workgroup's LOAD. -/
def started : State :=
  startScatter 0 { State.resetFor tiny with numKeys := 1, paddedSize := 1, phase := .scanned, keysA := [(0, 7)] }

theorem test_witness_EveryMoveKeepsTheScatterShape :
    ∃ run run' t, started.executing = some (.scatter run) ∧ Memory.wf started.hist = true ∧
      runFits started.cfg.spinBudget run = true ∧ wordsFit started run = true ∧
      dispatchMove (.scatter run) started = .next t ∧ t.executing = some (.scatter run') :=
  ⟨_, _, _, rfl, rfl, by decide +kernel, by decide +kernel, rfl, rfl⟩

theorem test_witness_EveryMoveShortensTheCommand :
    ∃ e t, started.executing = some e ∧ dispatchMove e started = .next t := ⟨_, _, rfl, rfl⟩

theorem test_witness_CommandsRunToTheirEnd :
    State.reset.executing = none ∧ ∃ t, exec .zero State.reset = .next t ∧ (t.phase == .zeroed) = true :=
  ⟨rfl, next_of_after (by decide +kernel)⟩

theorem test_witness_CommandsLeaveSizesAndQueueAlone :
    let s : State := { readyOdd with queue := [2], phase := .unprepared }
    s.host = [] ∧ s.executing = none ∧ ∃ t, exec .zero s = .next t ∧ (t.queue == [2]) = true :=
  ⟨rfl, rfl, next_of_after (by decide +kernel)⟩

theorem test_witness_OnlyZeroClearsSortFailed :
    let s : State := { at_ .scanned 2 1 with sortFailed := 1 }
    s.host = [] ∧ s.executing = none ∧ Instr.scatterOdd ≠ .zero ∧ ∃ t, exec .scatterOdd s = .next t :=
  ⟨rfl, rfl, by decide, _, rfl⟩

theorem test_witness_ScatterNeverTouchesSourceOrRows :
    (at_ .scanned 0 0).host = [] ∧ (at_ .scanned 0 0).executing = none ∧ (at_ .scanned 0 0).memOk = true ∧
    (∃ t, exec .scatterEven (at_ .scanned 0 0) = .next t) ∧
    (at_ .scanned 1 0).memOk = true ∧ ∃ t, exec .scatterOdd (at_ .scanned 1 0) = .next t :=
  ⟨rfl, rfl, by decide, ⟨_, rfl⟩, by decide, _, rfl⟩

theorem test_witness_ZeroClearsHistAndInfo :
    readyOdd.host = [] ∧ sizesLegal readyOdd = true ∧ Memory.wf readyOdd.hist = true ∧
      sizesLegal { readyOdd with paddedSize := 7 } = false := by decide +kernel

theorem test_witness_HistogramCountsEveryDigit :
    let s : State := { at_ .zeroed 0 0 with numKeys := 5, paddedSize := 8, keysA := allOnes 8 }
    s.cfg.wf = true ∧ s.host = [] ∧ s.executing = none ∧ s.phase = .zeroed ∧ sizesLegal s = true ∧ s.memOk = true := by
  decide

theorem test_witness_HistogramRowsSumToTheSize :
    let s : State := State.reset
    s.cfg.wf = true ∧ s.host = [] ∧ s.executing = none ∧ s.memOk = true ∧
      ∃ t, execAll [.zero, .histogram] s = .next t ∧ (t.phase == .histogrammed) = true :=
  ⟨by decide, rfl, rfl, by decide, next_of_after (by decide +kernel)⟩

theorem test_witness_BlellochScanGivesExclusiveSums : (List.replicate 256 (0xFFFFFFFF : Word)).length = 256 :=
  List.length_replicate

theorem test_witness_PrefixSumsEveryRow :
    let s : State := { readyOdd with phase := .histogrammed }
    s.host = [] ∧ s.executing = none ∧ s.phase = .histogrammed ∧ sizesLegal s = true ∧ Memory.wf s.hist = true
      ∧ readyOdd.phase ≠ .histogrammed := by decide +kernel

/-- SORT_FAILED was set in this dispatch (read by a draw; read as the newest value), and was set before it. -/
theorem test_witness_PollAbortsOnSortFailed :
    (loadCoherent 1 [0] 0 { State.reset with sched := [0] }).2.1 ≠ 0 ∧ (loadCoherent 1 [0] 1 State.reset).2.1 ≠ 0 ∧
      (1 : Nat) = ([0] : List Word).length ∧ (loadCoherent 1 [] 0 State.reset).2.1 ≠ 0 := by decide

/-- Slot 1 of digit 0 with what it held before in the dispatch; the words of each status; the retries below the budget
of 2 and at it; SORT_FAILED read as 0 while it is 1. -/
theorem test_witness_PollActsOnTheSlotItReads :
    (loadCoherent 0 [] 0 State.reset).2.1 = 0 ∧ (loadCoherent 1 [0] 0 { State.reset with sched := [0] }).2.1 = 1 ∧
    (loadCoherent 1 [0] 0 { State.reset with sched := [1] }).2.1 = 0 ∧
    pidx 1 0 < spaceWords (pollState 0 0 0).cfg .hist ∧ pidx 2 0 < spaceWords (pollState 0 0 0).cfg .hist ∧
    status (loadCoherent (loadWord (pollState 0 0 0x80000002) .hist (pidx 1 0)) [0x40000001, 0] 2 State.reset).2.1 0
      = (.inclusive, 2) ∧
    status (loadCoherent 0x80000002 [0x40000001, 0] 0 { State.reset with sched := [1] }).2.1 0 = (.aggregate, 1) ∧
    status (loadCoherent 0x80000002 [0x40000001, 0] 0 { State.reset with sched := [2] }).2.1 0 = (.invalid, 0) ∧
    status (loadWord (pollState 0 0xC0000003 0) .hist (pidx 0 0)) 0 = (.foreign, 3) ∧
    0 < (walker 1 1 0).cursor ∧ (walker 0 1 0).cursor = 0 ∧ (walker 0 1 0).retries < (pollState 0 0 0).cfg.spinBudget ∧
    (pollState 0 0 0).cfg.spinBudget ≤ (walker 0 2 0).retries := by decide +kernel

theorem test_witness_CoherentLoadReadsNothingOlder :
    2 ≤ ([7, 0] : List Word).length ∧ (loadCoherent 9 [7, 0] 1 { State.reset with sched := [1] }).2.1 = 7 := by decide

theorem test_witness_EveryInterleavingIsAdmitted :
    let e : Executing := .scan ((List.range 4).map fun _ => { phase := .load, scan := [] })
    let s : State := { at_ .histogrammed 0 0 with executing := some e, host := [.reset] }
    s.executing = some e ∧ Agent.group 0 ∈ enabledAgents s ∧ Agent.group 3 ∈ enabledAgents s ∧
      Agent.host ∈ enabledAgents s := by decide

theorem test_witness_WriteStoresOnlyAtItsDestinations :
    let g : ScatterGroup := { walkingGroup (laneStart 0) 0 with
      kv := [5, 1, 5, 1], pv := [10, 11, 12, 13], kr := [1, 1, 2, 2], digits := [5, 1, 5, 1], excl := [9, 0, 0, 0, 0, 3] }
    let run : ScatterRun := { pass := 1, size := 4, groups := [g], failedOlder := [] }
    State.reset.memOk = true ∧ after (scatterWrite run 0 g State.reset) (fun _ => true) = true ∧
      (∀ o < 4, ∀ o' < 4, dstAt g o' = dstAt g o → o' = o) ∧ dstAt g 0 = 3 ∧ dstAt g 2 = run.size := by decide

theorem test_witness_ScatterEvenPlacesEveryElement :
    readyEven.cfg.wf = true ∧ readyEven.host = [] ∧ readyEven.executing = none ∧ readyEven.inv = true ∧
    sizesLegal readyEven = true ∧ scatterEvenAccepted readyEven = true ∧ readyEven.sortFailed = 0 ∧
    rowExact readyEven (2 * readyEven.evenPass.toNat) ∧ partitionsInvalid readyEven (2 * readyEven.evenPass.toNat) := by
  unfold rowExact partitionsInvalid
  decide +kernel

theorem test_witness_ScatterOddPlacesEveryElement :
    readyOdd.cfg.wf = true ∧ readyOdd.host = [] ∧ readyOdd.executing = none ∧ readyOdd.inv = true ∧
    sizesLegal readyOdd = true ∧ scatterOddAccepted readyOdd = true ∧ readyOdd.sortFailed = 0 ∧
    rowExact readyOdd (2 * readyOdd.oddPass.toNat + 1) ∧
    partitionsInvalid readyOdd (2 * readyOdd.oddPass.toNat + 1) := by
  unfold rowExact partitionsInvalid
  decide +kernel

theorem test_witness_OnePartitionPassCannotFail :
    let s : State := { readyEven with numKeys := 3, paddedSize := 4 }
    let r : State := { readyOdd with numKeys := 3, paddedSize := 4 }
    s.cfg.wf = true ∧ s.host = [] ∧ s.executing = none ∧ s.inv = true ∧ sizesLegal s = true ∧
    s.paddedSize.toNat = s.cfg.tileS ∧ scatterEvenAccepted s = true ∧ rowExact s (2 * s.evenPass.toNat) ∧
    r.inv = true ∧ sizesLegal r = true ∧ scatterOddAccepted r = true ∧ rowExact r (2 * r.oddPass.toNat + 1) := by
  unfold rowExact
  decide +kernel

theorem test_witness_CommandsOnNoElements :
    (at_ .zeroed 0 0).numKeys = 0 ∧ (at_ .zeroed 0 0).paddedSize = 0 ∧ spacesDisjoint (at_ .zeroed 0 0).cfg = true ∧
    (at_ .zeroed 0 0).cfg.wf = true ∧ (at_ .zeroed 0 0).host = [] ∧ (at_ .zeroed 0 0).executing = none ∧
    (at_ .scanned 1 1).evenPass = (at_ .scanned 1 1).oddPass ∧ (at_ .scanned 1 1).evenPass.toNat ≤ 1 ∧
    (at_ .scanned 2 1).evenPass.toNat = (at_ .scanned 2 1).oddPass.toNat + 1 := by decide

theorem test_witness_FailedSortStaysFailed :
    let s : State := { readyEven with sortFailed := 1 }
    let r : State := { readyOdd with sortFailed := 1 }
    scatterEvenAccepted s = true ∧ scatterOddAccepted r = true ∧ s.cfg.wf = true ∧ s.host = [] ∧ s.executing = none ∧
    s.inv = true ∧ r.inv = true ∧ sizesLegal s = true ∧ sizesLegal r = true ∧ s.sortFailed ≠ 0 := by decide +kernel

/-- A sort of no element, under a schedule that always draws 0. -/
theorem test_witness_SuccessfulSortSortsStably :
    let s : State := { State.reset with sched := List.replicate 20 0 }
    s.cfg.wf = true ∧ s.host = [] ∧ s.executing = none ∧ s.memOk = true ∧ sizesLegal s = true ∧
      ∃ t, execAll sortCommands s = .next t ∧ (t.sortFailed == 0) = true :=
  ⟨by decide, rfl, rfl, by decide, by decide, next_of_after (by decide +kernel)⟩

theorem test_witness_OnePartitionSortSucceeds :
    let s : State := { readyEven with numKeys := 3, paddedSize := 4, payA := [(0, 1), (4, 2)], sortFailed := 1 }
    s.cfg.wf = true ∧ s.host = [] ∧ s.executing = none ∧ s.memOk = true ∧ sizesLegal s = true ∧
      s.paddedSize.toNat = s.cfg.tileS := by decide

theorem test_witness_AgentsThatCanMove :
    started.executing.isSome = true ∧ Agent.group 0 ∈ enabledAgents started ∧
    (startHistogram (at_ .zeroed 0 0)).executing.isSome = true ∧
    Agent.group 3 ∈ enabledAgents (startScan (at_ .histogrammed 0 0)) := by decide +kernel

/-- A row that is not exact and partition words of a pass before: 8 elements with rows of any content. -/
theorem test_witness_AcceptedScatterEndsInItsBounds :
    let s : State := { readyEven with hist := (4, 0xFF) :: readyOdd.hist, sortFailed := 7 }
    scatterEvenAccepted s = true ∧ scatterOddAccepted readyOdd = true ∧ s.host = [] ∧ s.executing = none ∧
    s.inv = true ∧ readyOdd.inv = true ∧ sizesLegal s = true ∧ sizesLegal readyOdd = true := by decide +kernel

end Sys2Proof.Tests
end

namespace Sys2Proof.Machine

/-! # What a move leaves alone

Frames of the state that every family of statements uses: the registers a move keeps, the word stores it makes, what the
host and the sequencer can do, and that every move of a dispatch shortens it. -/

/-! ## Sums over a list with one entry replaced -/

theorem zipIdx_set {α : Type} (l : List α) (i : Nat) (a : α) : (l.set i a).zipIdx = l.zipIdx.set i (a, i) := by
  refine List.ext_getElem (by simp) fun j h1 h2 => ?_
  simp only [List.getElem_zipIdx, List.getElem_set]
  split <;> simp_all

theorem sum_map_set_lt {α : Type} (f : α → Nat) {l : List α} {i : Nat} {a b : α} (h : l[i]? = some a)
    (hlt : f b < f a) : ((l.set i b).map f).sum < (l.map f).sum := by
  induction l generalizing i with
  | nil => simp at h
  | cons x xs ih =>
    cases i with
    | zero =>
      obtain rfl : x = a := by simpa using h
      simpa using hlt
    | succ i => simpa using ih (by simpa using h)

theorem sum_zipIdx_set_lt {α : Type} (f : α × Nat → Nat) {l : List α} {i : Nat} {a b : α} (h : l[i]? = some a)
    (hlt : f (b, i) < f (a, i)) : ((l.set i b).zipIdx.map f).sum < (l.zipIdx.map f).sum := by
  rw [zipIdx_set]
  exact sum_map_set_lt f (by simp [h]) hlt

/-! ## Registers -/

/-- What no move of the engine changes: the parameters, the sizes, the queue, the host. -/
structure SameBus (s t : State) : Prop where
  cfg : t.cfg = s.cfg
  numKeys : t.numKeys = s.numKeys
  paddedSize : t.paddedSize = s.paddedSize
  queue : t.queue = s.queue
  host : t.host = s.host
  reads : t.reads = s.reads

/-- What no move of a workgroup or a lane changes: also the pass counters and the fields of STATUS. -/
structure SameRegisters (s t : State) : Prop extends SameBus s t where
  evenPass : t.evenPass = s.evenPass
  oddPass : t.oddPass = s.oddPass
  phase : t.phase = s.phase
  cmdErr : t.cmdErr = s.cmdErr

theorem SameBus.refl (s : State) : SameBus s s := ⟨rfl, rfl, rfl, rfl, rfl, rfl⟩

theorem SameBus.trans {s t u : State} (h : SameBus s t) (h' : SameBus t u) : SameBus s u :=
  ⟨h'.cfg.trans h.cfg, h'.numKeys.trans h.numKeys, h'.paddedSize.trans h.paddedSize, h'.queue.trans h.queue,
    h'.host.trans h.host, h'.reads.trans h.reads⟩

theorem SameRegisters.refl (s : State) : SameRegisters s s := ⟨.refl s, rfl, rfl, rfl, rfl⟩

theorem SameRegisters.trans {s t u : State} (h : SameRegisters s t) (h' : SameRegisters t u) : SameRegisters s u :=
  ⟨h.toSameBus.trans h'.toSameBus, h'.evenPass.trans h.evenPass, h'.oddPass.trans h.oddPass,
    h'.phase.trans h.phase, h'.cmdErr.trans h.cmdErr⟩

theorem DrawsFrom.sameRegisters {s t : State} (h : DrawsFrom s t) : SameRegisters s t := by
  obtain ⟨hcfg, hnum, hpad, heven, hodd, _, hphase, herr, hqueue, _, hhost, hreads, _⟩ := h.fields
  exact ⟨⟨hcfg, hnum, hpad, hqueue, hhost, hreads⟩, heven, hodd, hphase, herr⟩

theorem DrawsFrom.executing {s t : State} (h : DrawsFrom s t) : t.executing = s.executing := by
  obtain ⟨_, _, _, _, _, _, _, _, _, hexec, _⟩ := h.fields
  exact hexec

theorem DrawsFrom.sortFailed {s t : State} (h : DrawsFrom s t) : t.sortFailed = s.sortFailed := by
  obtain ⟨_, _, _, _, _, hsf, _⟩ := h.fields
  exact hsf

theorem sameRegisters_setMem (s : State) (sp : Space) (m : Memory) : SameRegisters s (setMem s sp m) := by
  refine ⟨⟨?_, ?_, ?_, ?_, ?_, ?_⟩, ?_, ?_, ?_, ?_⟩ <;> simp

/-! ## Stores -/

/-- The word stores that lead from one memory to another hit indices with P only. -/
def Memory.StoredAt (P : Nat → Prop) (m n : Memory) : Prop :=
  ∃ ws : List (Nat × Word), (∀ x ∈ ws, P x.1) ∧ n = Memory.writeWords m ws

theorem Memory.writeWords_append (m : Memory) (xs ys : List (Nat × Word)) :
    Memory.writeWords m (xs ++ ys) = Memory.writeWords (Memory.writeWords m xs) ys := by
  induction xs generalizing m with
  | nil => rfl
  | cons x xs ih => exact ih _

theorem Memory.StoredAt.refl (P : Nat → Prop) (m : Memory) : Memory.StoredAt P m m := ⟨[], by simp, rfl⟩

theorem Memory.StoredAt.trans {P : Nat → Prop} {m n o : Memory} (h : Memory.StoredAt P m n)
    (h' : Memory.StoredAt P n o) : Memory.StoredAt P m o := by
  obtain ⟨xs, hxs, rfl⟩ := h
  obtain ⟨ys, hys, rfl⟩ := h'
  exact ⟨xs ++ ys, fun x hx => (List.mem_append.1 hx).elim (hxs x) (hys x), (writeWords_append _ _ _).symm⟩

theorem Memory.StoredAt.mono {P Q : Nat → Prop} {m n : Memory} (h : Memory.StoredAt P m n) (hPQ : ∀ i, P i → Q i) :
    Memory.StoredAt Q m n := by
  obtain ⟨ws, hws, rfl⟩ := h
  exact ⟨ws, fun x hx => hPQ _ (hws x hx), rfl⟩

theorem Memory.StoredAt.writeWord {P : Nat → Prop} (m : Memory) {i : Nat} (hi : P i) (v : Word) :
    Memory.StoredAt P m (Memory.writeWord m i v) := ⟨[(i, v)], by simpa using hi, rfl⟩

theorem Memory.StoredAt.atomicAdd {P : Nat → Prop} (m : Memory) {i : Nat} (hi : P i) (v : Word) :
    Memory.StoredAt P m (atomicAdd m i v) := by
  unfold Machine.atomicAdd
  split
  · exact .refl P m
  · exact .writeWord m hi _

/-- Stores keep the canonical form. -/
theorem Memory.StoredAt.wf {P : Nat → Prop} {m n : Memory} (h : Memory.StoredAt P m n) (hm : Memory.wf m = true) :
    Memory.wf n = true := by
  obtain ⟨ws, _, rfl⟩ := h
  exact wf_writeWords hm ws

/-- Stores inside a space keep its contents inside. -/
theorem Memory.StoredAt.within {P : Nat → Prop} {m n : Memory} {k : Nat} (h : Memory.StoredAt P m n)
    (hP : ∀ i, P i → i < k) (hm : Memory.within m k = true) : Memory.within n k = true := by
  obtain ⟨ws, hws, rfl⟩ := h
  exact within_writeWords hm fun x hx => hP _ (hws x hx)

/-- A byte outside every word that may be stored to reads as before. -/
theorem Memory.StoredAt.readByte {P : Nat → Prop} {m n : Memory} {a : Nat} (h : Memory.StoredAt P m n)
    (hm : Memory.wf m = true) (ha : ∀ i, P i → a < 4 * i ∨ 4 * i + 4 ≤ a) :
    Memory.readByte n a = Memory.readByte m a := by
  obtain ⟨ws, hws, rfl⟩ := h
  exact readByte_writeWords_other hm fun x hx => ha _ (hws x hx)

/-- From s to t each space has word stores at the indices P allows it, and no other change. -/
def StoresAt (P : Space → Nat → Prop) (s t : State) : Prop :=
  ∀ sp, Memory.StoredAt (P sp) (memOf s sp) (memOf t sp)

theorem StoresAt.trans {P : Space → Nat → Prop} {s t u : State} (h : StoresAt P s t) (h' : StoresAt P t u) :
    StoresAt P s u := fun sp => (h sp).trans (h' sp)

theorem StoresAt.mono {P Q : Space → Nat → Prop} {s t : State} (h : StoresAt P s t) (hPQ : ∀ sp i, P sp i → Q sp i) :
    StoresAt Q s t := fun sp => (h sp).mono (hPQ sp)

theorem StoresAt.of_memOf_eq {s t : State} (P : Space → Nat → Prop) (h : ∀ sp, memOf t sp = memOf s sp) :
    StoresAt P s t := fun sp => by rw [h sp]; exact .refl _ _

theorem storesAt_setMem {P : Space → Nat → Prop} {s : State} {sp : Space} {m : Memory}
    (h : Memory.StoredAt (P sp) (memOf s sp) m) : StoresAt P s (setMem s sp m) := by
  intro sp'
  rw [memOf_setMem]
  split
  · next heq => exact heq ▸ h
  · exact .refl _ _

theorem storesAt_storeWord {P : Space → Nat → Prop} (s : State) {sp : Space} {i : Nat} (hi : P sp i) (v : Word) :
    StoresAt P s (storeWord s sp i v) := storesAt_setMem (.writeWord _ hi v)

theorem storesAt_storeWords {P : Space → Nat → Prop} (s : State) {sp : Space} {ws : List (Nat × Word)}
    (hws : ∀ x ∈ ws, P sp x.1) : StoresAt P s (storeWords s sp ws) := storesAt_setMem ⟨ws, hws, rfl⟩

theorem DrawsFrom.storesAt {s t : State} (h : DrawsFrom s t) (P : Space → Nat → Prop) : StoresAt P s t :=
  .of_memOf_eq P h.memOf

/-- The frame of a space whose stores lie in [lo, hi). -/
theorem StoresAt.sameOutside {P : Space → Nat → Prop} {s t : State} {sp : Space} {lo hi : Nat} (h : StoresAt P s t)
    (hwf : Memory.wf (memOf s sp) = true) (hP : ∀ i, P sp i → lo ≤ i ∧ i < hi) : sameOutside s t sp lo hi := by
  intro a ha
  refine (h sp).readByte hwf fun i hi => ?_
  have := hP i hi
  omega

/-- The indices inside each space. -/
def inSpace (c : Config) (sp : Space) (i : Nat) : Prop := i < spaceWords c sp

theorem memOk_iff (s : State) : s.memOk = true ↔
    ∀ sp, Memory.wf (memOf s sp) = true ∧ Memory.within (memOf s sp) (spaceWords s.cfg sp) = true := by
  refine ⟨fun h sp => ?_, fun h => ?_⟩
  · simp only [State.memOk, List.all_eq_true, Bool.and_eq_true] at h
    exact h sp (by cases sp <;> simp)
  · simp only [State.memOk, List.all_eq_true, Bool.and_eq_true]
    exact fun sp _ => h sp

/-- Stores inside the spaces keep every space's contents canonical and inside. -/
theorem StoresAt.memOk {s t : State} (h : StoresAt (inSpace s.cfg) s t) (hcfg : t.cfg = s.cfg)
    (hs : s.memOk = true) : t.memOk = true := by
  rw [memOk_iff] at hs ⊢
  intro sp
  obtain ⟨hwf, hin⟩ := hs sp
  rw [hcfg]
  exact ⟨(h sp).wf hwf, (h sp).within (fun _ hi => hi) hin⟩

end Sys2Proof.Machine

namespace Sys2Proof.Machine

/-! # The host -/

/-- What a host operation does when it has a move: the reset event, an answer to the host, a word queued, or, while the
block is idle, a size or a word of a space written (10_state.md R21, R22, R26; 30_encoding.md R106). -/
inductive HostEffect (s : State) : State → Prop where
  | reset : HostEffect s (resetEvent s)
  | answer (v : Word) : HostEffect s (answer s v)
  | queue (v : Word) (room : s.queue.length < s.cfg.queueDepth) : HostEffect s { s with queue := s.queue ++ [v] }
  | numKeys (v : Word) (idle : busy s = false) : HostEffect s { s with numKeys := v, phase := .unprepared }
  | paddedSize (v : Word) (idle : busy s = false) : HostEffect s { s with paddedSize := v, phase := .unprepared }
  | store (sp : Space) (i : Nat) (v : Word) (idle : busy s = false) (inside : i < spaceWords s.cfg sp) :
      HostEffect s (storeWord s sp i v)

theorem writeReg_next {s t : State} {r : Reg} {v : Word} (h : writeReg s r v = .next t) : HostEffect s t := by
  cases r <;> simp only [writeReg] at h
  case numKeys =>
    split at h
    · simp at h
    · next hb => exact Host.Outcome.next.inj h ▸ .numKeys v (by simpa using hb)
  case paddedSize =>
    split at h
    · simp at h
    · next hb => exact Host.Outcome.next.inj h ▸ .paddedSize v (by simpa using hb)
  case cmd =>
    split at h
    · simp at h
    · next hroom => exact Host.Outcome.next.inj h ▸ .queue v (by omega)
  all_goals simp at h

theorem hostWrite_next {s t : State} {tgt : Target} {off size : Nat} {v : Word}
    (h : hostWrite s tgt off size v = .next t) : HostEffect s t := by
  unfold hostWrite at h
  split at h
  · simp at h
  · split at h
    · split at h
      · simp at h
      · exact writeReg_next h
    · split at h
      · simp at h
      · next hin =>
        split at h
        · simp at h
        · next hb => exact Host.Outcome.next.inj h ▸ .store _ _ v (by simpa using hb) (by omega)

theorem hostRead_next {s t : State} {tgt : Target} {off size : Nat} (h : hostRead s tgt off size = .next t) :
    HostEffect s t := by
  unfold hostRead at h
  split at h
  · simp at h
  · split at h
    · split at h
      · simp at h
      · split at h
        · simp at h
        · exact Host.Outcome.next.inj h ▸ .answer _
    · split at h
      · simp at h
      · split at h
        · simp at h
        · exact Host.Outcome.next.inj h ▸ .answer _

theorem hostOp_next {s t : State} {op : HostOp} (h : hostOp s op = .next t) : HostEffect s t := by
  cases op with
  | write tgt off size v => exact hostWrite_next h
  | read tgt off size => exact hostRead_next h
  | wait => exact Host.Outcome.next.inj h ▸ .answer _
  | reset => exact Host.Outcome.next.inj h ▸ .reset

/-- A host that can move takes the head of its list and does what that operation does. -/
theorem hostMove_next {s t : State} (hr : hostReady s = true) (h : hostMove s = .next t) :
    ∃ op rest, s.host = op :: rest ∧ HostEffect { s with host := rest } t := by
  unfold hostMove at h
  split at h
  · next hnil => simp [hostReady, hnil] at hr
  · next op rest hcons => exact ⟨op, rest, hcons, hostOp_next h⟩

theorem HostEffect.host {s t : State} (h : HostEffect s t) : t.host = s.host := by
  cases h <;> simp

theorem HostEffect.cfg {s t : State} (h : HostEffect s t) : t.cfg = s.cfg := by
  cases h <;> simp

/-- While a command executes the host leaves it alone, or the reset event ends it. -/
theorem HostEffect.executing {s t : State} (h : HostEffect s t) : t.executing = s.executing ∨ t.executing = none := by
  cases h <;> simp

theorem busy_of_executing {s : State} {e : Executing} (h : s.executing = some e) : busy s = true := by
  simp [busy, h]

theorem executing_none_of_idle {s : State} (h : busy s = false) : s.executing = none := by
  unfold busy at h
  simpa using (Bool.or_eq_false_iff.1 h).2

theorem hostReady_nil {s : State} (h : s.host = []) : hostReady s = false := by simp [hostReady, h]

/-- Whether the host can move does not depend on the draws. -/
theorem DrawsFrom.hostReady {s t : State} (h : DrawsFrom s t) : hostReady t = hostReady s := by
  obtain ⟨_, _, _, _, _, _, _, _, hqueue, hexec, hhost, _⟩ := h.fields
  simp only [Machine.hostReady, busy, hqueue, hexec, hhost]

end Sys2Proof.Machine

namespace Sys2Proof.Machine

/-! # The agents of a dispatch -/

/-- Lane l can move by itself in this phase of its workgroup (43_scatter.md R182). -/
def Lane.active (ph : ScatterPhase) (l : Lane) : Prop :=
  (ph = .publish ∧ l.publishing = true) ∨ (ph = .lookback ∧ l.polling = true)

theorem mem_lanesWhere {f : Lane → Bool} {lanes : List Lane} {d : Nat} (h : d ∈ lanesWhere f lanes) :
    ∃ l, lanes[d]? = some l ∧ f l = true := by
  obtain ⟨⟨l, d'⟩, hmem, rfl⟩ := List.mem_map.1 h
  obtain ⟨hl, hf⟩ := List.mem_filter.1 hmem
  exact ⟨l, List.mem_zipIdx_iff_getElem?.1 hl, hf⟩

/-- A workgroup moves as a whole unless it is terminal, or through a lane that can move. -/
theorem mem_scatterGroupAgents {w : Nat} {g : ScatterGroup} {a : Agent} (h : a ∈ scatterGroupAgents w g) :
    (a = .group w ∧ g.phase ≠ .done ∧ g.phase ≠ .failed)
      ∨ ∃ d l, a = .lane w d ∧ g.lanes[d]? = some l ∧ l.active g.phase := by
  unfold scatterGroupAgents at h
  split at h
  case h_1 hph => exact .inl ⟨by simpa using h, by simp [hph], by simp [hph]⟩
  case h_2 hph =>
    split at h
    · exact .inl ⟨by simpa using h, by simp [hph], by simp [hph]⟩
    · obtain ⟨d, hd, rfl⟩ := List.mem_map.1 h
      obtain ⟨l, hl, hf⟩ := mem_lanesWhere hd
      exact .inr ⟨d, l, rfl, hl, .inl ⟨hph, hf⟩⟩
  case h_3 hph =>
    split at h
    · exact .inl ⟨by simpa using h, by simp [hph], by simp [hph]⟩
    · obtain ⟨d, hd, rfl⟩ := List.mem_map.1 h
      obtain ⟨l, hl, hf⟩ := mem_lanesWhere hd
      exact .inr ⟨d, l, rfl, hl, .inr ⟨hph, hf⟩⟩
  case h_4 hph => exact .inl ⟨by simpa using h, by simp [hph], by simp [hph]⟩
  case h_5 => simp at h
  case h_6 => simp at h

theorem mem_dispatchAgents_histogram {run : HistRun} {a : Agent} (h : a ∈ dispatchAgents (.histogram run)) :
    ∃ w g, a = .group w ∧ run.groups[w]? = some g ∧ g.phase ≠ .done := by
  obtain ⟨⟨g, w⟩, hmem, rfl⟩ := List.mem_map.1 h
  obtain ⟨hg, hph⟩ := List.mem_filter.1 hmem
  exact ⟨w, g, rfl, List.mem_zipIdx_iff_getElem?.1 hg, by simpa using hph⟩

theorem mem_dispatchAgents_scan {groups : List ScanGroup} {a : Agent} (h : a ∈ dispatchAgents (.scan groups)) :
    ∃ w g, a = .group w ∧ groups[w]? = some g ∧ g.phase ≠ .done := by
  obtain ⟨⟨g, w⟩, hmem, rfl⟩ := List.mem_map.1 h
  obtain ⟨hg, hph⟩ := List.mem_filter.1 hmem
  exact ⟨w, g, rfl, List.mem_zipIdx_iff_getElem?.1 hg, by simpa using hph⟩

theorem mem_dispatchAgents_scatter {run : ScatterRun} {a : Agent} (h : a ∈ dispatchAgents (.scatter run)) :
    ∃ w g, run.groups[w]? = some g ∧ ((a = .group w ∧ g.phase ≠ .done ∧ g.phase ≠ .failed)
      ∨ ∃ d l, a = .lane w d ∧ g.lanes[d]? = some l ∧ l.active g.phase) := by
  obtain ⟨⟨g, w⟩, hmem, ha⟩ := List.mem_flatMap.1 h
  exact ⟨w, g, List.mem_zipIdx_iff_getElem?.1 hmem, mem_scatterGroupAgents ha⟩

/-- Who can move while command e executes: the host, the sequencer once no workgroup can, or an agent of the
dispatch. -/
theorem mem_enabledAgents {s : State} {e : Executing} {a : Agent} (he : s.executing = some e)
    (h : a ∈ enabledAgents s) :
    (a = .host ∧ hostReady s = true) ∨ (a = .sequencer ∧ dispatchAgents e = []) ∨ a ∈ dispatchAgents e := by
  rcases List.mem_append.1 h with h | h
  · simp only [engineAgents, he] at h
    split at h
    · next hnil => exact .inr (.inl ⟨by simpa using h, hnil⟩)
    · exact .inr (.inr h)
  · split at h
    · next hr => exact .inl ⟨by simpa using h, hr⟩
    · simp at h

theorem dispatchMove_cases {s t : State} {e : Executing} (he : s.executing = some e)
    (h : dispatchMove e s = .next t) : ∃ s', DrawsFrom s s' ∧
      ((hostReady s' = true ∧ hostMove s' = .next t) ∨ completeMove e s' = .next t
        ∨ ∃ a ∈ dispatchAgents e, agentMove e a s' = .next t) := by
  obtain ⟨a, s', ha, hd, hmove⟩ := dispatchMove_next he h
  refine ⟨s', hd, ?_⟩
  rcases mem_enabledAgents he ha with ⟨rfl, hr⟩ | ⟨rfl, _⟩ | ha
  · exact .inl ⟨hd.hostReady.trans hr, hmove⟩
  · exact .inr (.inl hmove)
  · exact .inr (.inr ⟨a, ha, hmove⟩)

/-! # What a move of a dispatch does -/

/-- The same dispatch with the same operands, its workgroups further on. ZERO has no workgroups. -/
inductive SameDispatch : Executing → Executing → Prop where
  | histogram {run run' : HistRun} (numKeys : run'.numKeys = run.numKeys) (size : run'.size = run.size) :
      SameDispatch (.histogram run) (.histogram run')
  | scan {groups groups' : List ScanGroup} : SameDispatch (.scan groups) (.scan groups')
  | scatter {run run' : ScatterRun} (pass : run'.pass = run.pass) (size : run'.size = run.size) :
      SameDispatch (.scatter run) (.scatter run')

/-- What every move of a workgroup or a lane of command e does: registers stay, SORT_FAILED stays or a scatter sets it,
stores lie inside the spaces, and the dispatch has fewer moves left. -/
structure Worked (e : Executing) (s t : State) : Prop where
  registers : SameRegisters s t
  flag : t.sortFailed = s.sortFailed ∨ (t.sortFailed = 1 ∧ ∃ run, e = .scatter run)
  memory : StoresAt (inSpace s.cfg) s t
  dispatch : ∃ e', t.executing = some e' ∧ SameDispatch e e' ∧ executingWork s.cfg e' < executingWork s.cfg e

/-! ## Histogram -/

theorem sameRegisters_setHistGroup (s : State) (run : HistRun) (w : Nat) (g : HistGroup) :
    SameRegisters s (setHistGroup s run w g) := ⟨⟨rfl, rfl, rfl, rfl, rfl, rfl⟩, rfl, rfl, rfl, rfl⟩

theorem memOf_setHistGroup (s : State) (run : HistRun) (w : Nat) (g : HistGroup) (sp : Space) :
    memOf (setHistGroup s run w g) sp = memOf s sp := by cases sp <;> rfl

/-- A workgroup replaced by one with fewer moves left, over a memory with stores inside its spaces. -/
theorem worked_setHistGroup {s : State} {run : HistRun} {w : Nat} {g g' : HistGroup} {sp : Space} {m : Memory}
    (hg : run.groups[w]? = some g) (hm : Memory.StoredAt (inSpace s.cfg sp) (memOf s sp) m)
    (hwork : histGroupWork g' < histGroupWork g) :
    Worked (.histogram run) s (setHistGroup (setMem s sp m) run w g') where
  registers := (sameRegisters_setMem s sp m).trans (sameRegisters_setHistGroup _ run w g')
  flag := .inl (by simp)
  memory := (storesAt_setMem hm).trans (.of_memOf_eq _ (memOf_setHistGroup _ run w g'))
  dispatch := ⟨_, rfl, .histogram rfl rfl, by
    simpa [executingWork] using sum_map_set_lt histGroupWork hg hwork⟩

theorem storedAt_addRow {P : Nat → Prop} {p : Nat} (m : Memory) (counts : List Word)
    (h : ∀ d < 256, P (hidx p d)) : Memory.StoredAt P m (addRow m p counts) := by
  have key : ∀ (ds : List Nat) (m : Memory), (∀ d ∈ ds, d < 256) →
      Memory.StoredAt P m (ds.foldl (fun m d => atomicAdd m (hidx p d) (arrayAt counts d)) m) := by
    intro ds
    induction ds with
    | nil => exact fun m _ => .refl P m
    | cons d ds ih =>
      intro m hds
      exact (Memory.StoredAt.atomicAdd m (h d (hds d (by simp))) _).trans
        (ih _ fun x hx => hds x (by simp [hx]))
  exact key _ m fun d hd => List.mem_range.1 hd

theorem histPadding_mem {c : Config} {run : HistRun} {w : Nat} {x : Nat × Word} (h : x ∈ histPadding c run w) :
    x.1 ∈ histTile c run.size w := by
  obtain ⟨i, hi, rfl⟩ := List.mem_map.1 h
  exact (List.mem_filter.1 hi).1

theorem histGroupWork_nextRound (r : Fin 4) (kv acc : List Word) :
    histGroupWork { phase := if r = 3 then .done else .count (r + 1), kv := kv, acc := acc } < 4 - r.val := by
  by_cases hr : r = 3
  · simp [histGroupWork, hr]
  · have hlt : r < Fin.last 3 := Fin.lt_last_iff_ne_last.2 hr
    have hval : (r + 1).val = r.val + 1 := Fin.val_add_one_of_lt hlt
    simp only [histGroupWork, hr, if_false, hval]
    omega

theorem histGroupMove_worked {s t : State} {run : HistRun} {w : Nat} {g : HistGroup}
    (hg : run.groups[w]? = some g) (hph : g.phase ≠ .done) (h : histGroupMove run w g s = .next t) :
    Worked (.histogram run) s t := by
  unfold histGroupMove at h
  split at h
  case h_1 hload =>
    obtain ⟨hin, h⟩ := guardSpace_next.1 h
    obtain rfl := Host.Outcome.next.inj h
    exact worked_setHistGroup hg ⟨_, fun x hx => hin _ (histPadding_mem hx), rfl⟩ (by simp [histGroupWork, hload])
  case h_2 r hcount =>
    obtain ⟨hin, h⟩ := guardSpace_next.1 h
    obtain rfl := Host.Outcome.next.inj h
    refine worked_setHistGroup hg (storedAt_addRow _ _ fun d hd => hin _ ?_) ?_
    · exact List.mem_map_of_mem (List.mem_range.2 hd)
    · exact (histGroupWork_nextRound r _ _).trans_eq (by simp [histGroupWork, hcount])
  case h_3 hdone => exact absurd hdone hph

/-! ## Prefix -/

theorem sameRegisters_setScanGroup (s : State) (gs : List ScanGroup) (p : Nat) (g : ScanGroup) :
    SameRegisters s (setScanGroup s gs p g) := ⟨⟨rfl, rfl, rfl, rfl, rfl, rfl⟩, rfl, rfl, rfl, rfl⟩

theorem memOf_setScanGroup (s : State) (gs : List ScanGroup) (p : Nat) (g : ScanGroup) (sp : Space) :
    memOf (setScanGroup s gs p g) sp = memOf s sp := by cases sp <;> rfl

theorem worked_setScanGroup {s : State} {gs : List ScanGroup} {p : Nat} {g g' : ScanGroup} {ws : List (Nat × Word)}
    (hg : gs[p]? = some g) (hws : ∀ x ∈ ws, inSpace s.cfg .hist x.1) (hwork : scanGroupWork g' < scanGroupWork g) :
    Worked (.scan gs) s (setScanGroup (storeWords s .hist ws) gs p g') where
  registers := (sameRegisters_setMem s .hist _).trans (sameRegisters_setScanGroup _ gs p g')
  flag := .inl (by simp)
  memory := (storesAt_storeWords s hws).trans (.of_memOf_eq _ (memOf_setScanGroup _ gs p g'))
  dispatch := ⟨_, rfl, .scan, by simpa [executingWork] using sum_map_set_lt scanGroupWork hg hwork⟩

theorem rowStores_mem {p : Nat} {xs : List Word} {x : Nat × Word} (h : x ∈ rowStores p xs) : x.1 ∈ rowIndices p := by
  obtain ⟨d, hd, rfl⟩ := List.mem_map.1 h
  exact List.mem_map_of_mem hd

theorem scanGroupMove_worked {s t : State} {gs : List ScanGroup} {p : Nat} {g : ScanGroup}
    (hg : gs[p]? = some g) (hph : g.phase ≠ .done) (h : scanGroupMove gs p g s = .next t) :
    Worked (.scan gs) s t := by
  unfold scanGroupMove at h
  split at h
  case h_1 hload =>
    obtain ⟨hin, h⟩ := guardSpace_next.1 h
    obtain rfl := Host.Outcome.next.inj h
    exact worked_setScanGroup (ws := []) hg (by simp) (by simp [scanGroupWork, hload])
  case h_2 hscan =>
    obtain ⟨hin, h⟩ := guardSpace_next.1 h
    obtain rfl := Host.Outcome.next.inj h
    exact worked_setScanGroup hg (fun x hx => hin _ (rowStores_mem hx)) (by simp [scanGroupWork, hscan])
  case h_3 hdone => exact absurd hdone hph

end Sys2Proof.Machine

namespace Sys2Proof.Machine

/-! # What a move of a scatter does -/

/-! ## The state with a scatter replaced -/

theorem sameRegisters_setScatter (s : State) (run : ScatterRun) : SameRegisters s (setScatter s run) :=
  ⟨⟨rfl, rfl, rfl, rfl, rfl, rfl⟩, rfl, rfl, rfl, rfl⟩

theorem memOf_setScatter (s : State) (run : ScatterRun) (sp : Space) : memOf (setScatter s run) sp = memOf s sp := by
  cases sp <;> rfl

/-- The words that a workgroup with n lanes may store to: its partition words, and the destination below PADDED_SIZE. -/
def scatterTarget (run : ScatterRun) (w n : Nat) (sp : Space) (i : Nat) : Prop :=
  (sp = .hist ∧ ∃ d < n, i = pidx w d) ∨ ((sp = destKeys run.pass ∨ sp = destPay run.pass) ∧ i < run.size)

/-- While the workgroup walks, no lane's cursor is above the workgroup's own slot. -/
def ScatterGroup.cursorsFit (w : Nat) (g : ScatterGroup) : Prop :=
  g.phase = .lookback → ∀ l ∈ g.lanes, l.cursor ≤ w

/-- How a move changes its workgroup: the lanes stay as many, their cursors stay at or below w, fewer moves are left. -/
structure GroupStep (budget w : Nat) (g g' : ScatterGroup) : Prop where
  lanes : g'.lanes.length = g.lanes.length
  cursors : g.cursorsFit w → g'.cursorsFit w
  work : scatterGroupWork budget w g' < scatterGroupWork budget w g

/-- What a move of workgroup w, or of a lane of it, does. -/
structure ScatterStep (run : ScatterRun) (w : Nat) (g : ScatterGroup) (s t : State) : Prop where
  registers : SameRegisters s t
  flag : t.sortFailed = s.sortFailed ∨ t.sortFailed = 1
  memory : StoresAt (fun sp i => inSpace s.cfg sp i ∧ scatterTarget run w g.lanes.length sp i) s t
  dispatch : ∃ g' older, t.executing = some (.scatter { run.setGroup w g' with failedOlder := older })
    ∧ GroupStep s.cfg.spinBudget w g g'

theorem scatterStep_setScatter {run : ScatterRun} {w : Nat} {g g' : ScatterGroup} {s s' : State} (older : List Word)
    (hreg : SameRegisters s s') (hflag : s'.sortFailed = s.sortFailed ∨ s'.sortFailed = 1)
    (hmem : StoresAt (fun sp i => inSpace s.cfg sp i ∧ scatterTarget run w g.lanes.length sp i) s s')
    (hstep : GroupStep s.cfg.spinBudget w g g') :
    ScatterStep run w g s (setScatter s' { run.setGroup w g' with failedOlder := older }) where
  registers := hreg.trans (sameRegisters_setScatter _ _)
  flag := hflag
  memory := hmem.trans (.of_memOf_eq _ (memOf_setScatter _ _))
  dispatch := ⟨g', older, rfl, hstep⟩

/-- A move that changes nothing but its workgroup. -/
theorem scatterStep_group {run : ScatterRun} {w : Nat} {g g' : ScatterGroup} {s : State}
    (hstep : GroupStep s.cfg.spinBudget w g g') : ScatterStep run w g s (setScatter s (run.setGroup w g')) :=
  scatterStep_setScatter run.failedOlder (.refl s) (.inl rfl) (.of_memOf_eq _ fun _ => rfl) hstep

/-- A move that stores one partition word. -/
theorem scatterStep_publish {run : ScatterRun} {w d : Nat} {g g' : ScatterGroup} {s : State} {v : Word}
    (hd : d < g.lanes.length) (hin : pidx w d < spaceWords s.cfg .hist) (hstep : GroupStep s.cfg.spinBudget w g g') :
    ScatterStep run w g s (setScatter (publishWord s w d v) (run.setGroup w g')) :=
  scatterStep_setScatter run.failedOlder (sameRegisters_setMem s .hist _) (.inl rfl)
    (storesAt_storeWord s ⟨hin, .inl ⟨rfl, d, hd, rfl⟩⟩ v) hstep

/-- Draws before a move do not change what it does. -/
theorem ScatterStep.after_draws {run : ScatterRun} {w : Nat} {g : ScatterGroup} {s s' t : State} (hd : DrawsFrom s s')
    (h : ScatterStep run w g s' t) : ScatterStep run w g s t := by
  have hreg := hd.sameRegisters
  obtain ⟨hregs, hflag, hmem, hdisp⟩ := h
  rw [hreg.cfg] at hmem hdisp
  exact ⟨hreg.trans hregs, hd.sortFailed ▸ hflag, (hd.storesAt _).trans hmem, hdisp⟩

/-! ## The moves left in a workgroup -/

/-- The moves of the workgroup as a whole that its phase leaves. -/
def ScatterPhase.rank : ScatterPhase → Nat
  | .load => 4
  | .publish => 3
  | .lookback => 2
  | .write => 1
  | .done => 0
  | .failed => 0

theorem scatterGroupWork_eq (budget w : Nat) (g : ScatterGroup) :
    scatterGroupWork budget w g = g.phase.rank + (g.lanes.map (laneWork budget w g.phase)).sum := by
  cases hph : g.phase <;> simp [scatterGroupWork, hph, ScatterPhase.rank]

/-- A workgroup whose lane d moved on. -/
theorem groupStep_lane {budget w d : Nat} {g g' : ScatterGroup} {l l' : Lane} (hl : g.lanes[d]? = some l)
    (hlanes : g'.lanes = g.lanes.set d l') (hph : g'.phase = g.phase) (hcur : l'.cursor ≤ l.cursor)
    (hwork : laneWork budget w g.phase l' < laneWork budget w g.phase l) : GroupStep budget w g g' where
  lanes := by simp [hlanes]
  cursors := by
    intro hfit hlb m hm
    rw [hph] at hlb
    rw [hlanes] at hm
    rcases List.mem_or_eq_of_mem_set hm with hm | rfl
    · exact hfit hlb m hm
    · exact hcur.trans (hfit hlb l (List.mem_of_getElem? hl))
  work := by
    rw [scatterGroupWork_eq, scatterGroupWork_eq, hph, hlanes]
    exact Nat.add_lt_add_left (sum_map_set_lt _ hl hwork) _

/-- A workgroup in its next phase. -/
theorem groupStep_phase {budget w : Nat} {g g' : ScatterGroup} (f : Lane → Lane) (hlanes : g'.lanes = g.lanes.map f)
    (hrank : g'.phase.rank < g.phase.rank)
    (hwork : ∀ l, laneWork budget w g'.phase (f l) ≤ laneWork budget w g.phase l)
    (hcur : g'.phase = .lookback → ∀ l, (f l).cursor ≤ w) : GroupStep budget w g g' where
  lanes := by simp [hlanes]
  cursors := by
    intro _ hlb m hm
    rw [hlanes] at hm
    obtain ⟨l, _, rfl⟩ := List.mem_map.1 hm
    exact hcur hlb l
  work := by
    rw [scatterGroupWork_eq, scatterGroupWork_eq, hlanes, List.map_map]
    have := List.sum_le_sum (l := g.lanes) fun l _ => hwork l
    simp only [Function.comp_def]
    omega

theorem laneWork_lookback_polling {budget w : Nat} {l : Lane} (h : l.polling = true) :
    laneWork budget w .lookback l = l.cursor * (budget + 2) + (budget + 1 - l.retries) + 1 := by
  simp [laneWork, h]

theorem laneWork_lookback_ended {budget w : Nat} {l : Lane} (h : l.polling = false) :
    laneWork budget w .lookback l = 0 := by
  simp [laneWork, h]

theorem laneWork_publish_le_load (budget w : Nat) (l : Lane) :
    laneWork budget w .publish l ≤ laneWork budget w .load l := by
  cases hl : l.lstate <;> simp only [laneWork, hl] <;> omega

theorem laneWork_startWalk_le (budget : Nat) {w : Nat} (hw : w ≠ 0) (l : Lane) :
    laneWork budget w .lookback (l.startWalk w) ≤ laneWork budget w .publish l := by
  obtain ⟨v, rfl⟩ := Nat.exists_eq_succ_of_ne_zero hw
  rw [laneWork_lookback_polling (by simp [Lane.startWalk, Lane.polling])]
  cases hl : l.lstate <;> simp [laneWork, hl, Lane.startWalk, Nat.add_mul] <;> omega

/-! ## Moves of a workgroup as a whole -/

theorem scatterLoad_step {run : ScatterRun} {w : Nat} {g : ScatterGroup} {s t : State} (hph : g.phase = .load)
    (h : scatterLoad run w g s = .next t) : ScatterStep run w g s t := by
  obtain ⟨_, h⟩ := guardSpace_next.1 h
  obtain ⟨_, h⟩ := guardSpace_next.1 h
  obtain rfl := Host.Outcome.next.inj h
  refine scatterStep_group (groupStep_phase id (by simp [scatterLoaded]) ?_ ?_ ?_)
  · simp [scatterLoaded, hph, ScatterPhase.rank]
  · simpa [scatterLoaded, hph] using laneWork_publish_le_load _ _
  · simp [scatterLoaded]

theorem publishBarrier_step {run : ScatterRun} {w : Nat} {g : ScatterGroup} {s t : State} (hph : g.phase = .publish)
    (h : publishBarrier run w g s = .next t) : ScatterStep run w g s t := by
  obtain rfl := Host.Outcome.next.inj h
  refine scatterStep_group ?_
  split
  · exact groupStep_phase id (by simp) (by simp [hph, ScatterPhase.rank]) (fun l => by simp [laneWork]) (by simp)
  · next hw =>
    refine groupStep_phase (fun l => l.startWalk w) rfl (by simp [hph, ScatterPhase.rank]) (fun l => ?_) ?_
    · rw [hph]
      exact laneWork_startWalk_le _ hw l
    · exact fun _ l => Nat.sub_le w 1

theorem lookbackBarrier_step {run : ScatterRun} {w : Nat} {g : ScatterGroup} {s t : State}
    (hph : g.phase = .lookback) (h : lookbackBarrier run w g s = .next t) : ScatterStep run w g s t := by
  obtain rfl := Host.Outcome.next.inj h
  refine scatterStep_group (groupStep_phase id (by simp) ?_ (fun l => ?_) ?_)
  all_goals cases g.scatterFailed <;> simp [hph, ScatterPhase.rank, laneWork]

theorem placeAll_frame {P : Space → Nat → Prop} (s : State) (p : Nat) {ps : List Placed}
    (hk : ∀ x ∈ ps, P (destKeys p) x.index) (hp : ∀ x ∈ ps, P (destPay p) x.index) :
    SameRegisters s (placeAll s p ps) ∧ (placeAll s p ps).sortFailed = s.sortFailed ∧ StoresAt P s (placeAll s p ps) := by
  refine ⟨(sameRegisters_setMem s _ _).trans (sameRegisters_setMem _ _ _), by simp [placeAll], ?_⟩
  refine (storesAt_storeWords s fun x hx => ?_).trans (storesAt_storeWords _ fun x hx => ?_)
  · obtain ⟨y, hy, rfl⟩ := List.mem_map.1 hx
    exact hk y hy
  · obtain ⟨y, hy, rfl⟩ := List.mem_map.1 hx
    exact hp y hy

theorem scatterWrite_step {run : ScatterRun} {w : Nat} {g : ScatterGroup} {s t : State} (hph : g.phase = .write)
    (h : scatterWrite run w g s = .next t) : ScatterStep run w g s t := by
  obtain ⟨hkeys, h⟩ := guardSpace_next.1 h
  obtain ⟨hpays, h⟩ := guardSpace_next.1 h
  obtain rfl := Host.Outcome.next.inj h
  obtain ⟨hmem, hd⟩ := writeOrder_spec (stored s.cfg run g) s
  have hsize : ∀ x ∈ (writeOrder (stored s.cfg run g) s).1, x.index < run.size :=
    fun x hx => (mem_stored.1 (hmem x hx)).2
  obtain ⟨hreg, hflag, hstores⟩ := placeAll_frame
    (P := fun sp i => inSpace s.cfg sp i ∧ scatterTarget run w g.lanes.length sp i)
    (writeOrder (stored s.cfg run g) s).2 run.pass
    (fun x hx => ⟨hkeys _ (List.mem_map_of_mem (hmem x hx)), .inr ⟨.inl rfl, hsize x hx⟩⟩)
    (fun x hx => ⟨hpays _ (List.mem_map_of_mem (hmem x hx)), .inr ⟨.inr rfl, hsize x hx⟩⟩)
  exact scatterStep_setScatter run.failedOlder (hd.sameRegisters.trans hreg) (.inl (hflag.trans hd.sortFailed))
    ((hd.storesAt _).trans hstores)
    (groupStep_phase id (by simp) (by simp [hph, ScatterPhase.rank]) (fun l => by simp [laneWork]) (by simp))

theorem scatterGroupMove_step {run : ScatterRun} {w : Nat} {g : ScatterGroup} {s t : State} (hdone : g.phase ≠ .done)
    (hfailed : g.phase ≠ .failed) (h : scatterGroupMove run w g s = .next t) : ScatterStep run w g s t := by
  unfold scatterGroupMove at h
  split at h
  case h_1 hph => exact scatterLoad_step hph h
  case h_2 hph => exact publishBarrier_step hph h
  case h_3 hph => exact lookbackBarrier_step hph h
  case h_4 hph => exact scatterWrite_step hph h
  case h_5 hph => exact absurd hph hdone
  case h_6 hph => exact absurd hph hfailed

/-! ## Moves of a lane -/

theorem publishMove_step {run : ScatterRun} {w d : Nat} {g : ScatterGroup} {l : Lane} {s t : State}
    (hl : g.lanes[d]? = some l) (hph : g.phase = .publish) (hpub : l.publishing = true)
    (h : publishMove run w d g l s = .next t) : ScatterStep run w g s t := by
  obtain ⟨hd, _⟩ := List.getElem?_eq_some_iff.1 hl
  unfold publishMove at h
  split at h
  case h_1 hls =>
    split at h
    · obtain ⟨_, h⟩ := guardSpace_next.1 h
      obtain rfl := Host.Outcome.next.inj h
      exact scatterStep_group (groupStep_lane hl rfl rfl le_rfl (by simp [laneWork, hph, hls]))
    · obtain ⟨hin, h⟩ := guardSpace_next.1 h
      obtain rfl := Host.Outcome.next.inj h
      exact scatterStep_publish hd (hin _ (by simp))
        (groupStep_lane hl rfl rfl le_rfl (by simp [laneWork, hph, hls]))
  case h_2 hls =>
    obtain ⟨hin, h⟩ := guardSpace_next.1 h
    obtain rfl := Host.Outcome.next.inj h
    exact scatterStep_publish hd (hin _ (by simp))
      (groupStep_lane hl rfl rfl le_rfl (by simp [laneWork, hph, hls]))
  case h_3 hwait hbased =>
    cases hls : l.lstate <;> simp_all [Lane.publishing]

/-- A lane that stops walking has no move left, where a walking one has some. -/
theorem groupStep_stop {budget w d : Nat} {g g' : ScatterGroup} {l l' : Lane} (hl : g.lanes[d]? = some l)
    (hph : g.phase = .lookback) (hpoll : l.polling = true) (hlanes : g'.lanes = g.lanes.set d l')
    (hph' : g'.phase = g.phase) (hcur : l'.cursor = l.cursor) (hstop : l'.polling = false) :
    GroupStep budget w g g' := by
  refine groupStep_lane hl hlanes hph' hcur.le ?_
  rw [hph, laneWork_lookback_polling hpoll, laneWork_lookback_ended hstop]
  omega

theorem pollOutcome_advance {p budget cursor retries : Nat} {v c : Word}
    (h : pollOutcome p budget cursor retries v = .advance c) : 0 < cursor := by
  unfold pollOutcome notReady at h
  split at h
  case h_2 =>
    split at h
    · assumption
    · split at h <;> simp at h
  case h_1 => simp at h
  all_goals split at h <;> simp at h

theorem pollOutcome_contention {p budget cursor retries : Nat} {v : Word}
    (h : pollOutcome p budget cursor retries v = .contention) : retries + 1 ≤ budget := by
  unfold pollOutcome notReady at h
  split at h
  case h_1 => simp at h
  case h_2 =>
    split at h
    · simp at h
    · split at h
      · simp at h
      · omega
  all_goals
    split at h
    · simp at h
    · omega

/-- l' is lane l with other marks of what it has read. -/
def Lane.SameWalk (l l' : Lane) : Prop := l'.lstate = l.lstate ∧ l'.cursor = l.cursor ∧ l'.retries = l.retries

theorem pollSlot_step {run : ScatterRun} {w d : Nat} {g : ScatterGroup} {l l₀ : Lane} {s t : State}
    (hl : g.lanes[d]? = some l₀) (hsame : l₀.SameWalk l) (hph : g.phase = .lookback) (hpoll : l₀.polling = true)
    (h : pollSlot run w d g l s = .next t) : ScatterStep run w g s t := by
  obtain ⟨hls, hcur, hret⟩ := hsame
  obtain ⟨hd, _⟩ := List.getElem?_eq_some_iff.1 hl
  obtain ⟨_, h⟩ := guardSpace_next.1 h
  have hdraw := loadCoherent_draws (loadWord s .hist (pidx l.cursor d)) (slotOlder run l.cursor d) l.seenSlot s
  have hwalk : l.polling = true := by simpa [Lane.polling, hls] using hpoll
  refine .after_draws hdraw ?_
  have hcfg := hdraw.sameRegisters.cfg
  simp only at h
  split at h
  case h_1 =>
    obtain ⟨hin, h⟩ := guardSpace_next.1 h
    obtain rfl := Host.Outcome.next.inj h
    exact scatterStep_publish hd (hin _ (by simp)) (groupStep_stop hl hph hpoll rfl rfl hcur rfl)
  case h_2 hout =>
    obtain rfl := Host.Outcome.next.inj h
    refine scatterStep_group (groupStep_lane hl rfl rfl (by simp [hcur]) ?_)
    have hpos := pollOutcome_advance hout
    obtain ⟨v, hv⟩ := Nat.exists_eq_succ_of_ne_zero hpos.ne'
    rw [hph, laneWork_lookback_polling hpoll, laneWork_lookback_polling (by simpa [Lane.polling] using hwalk)]
    simp [← hcur, hv, Nat.succ_mul]
    omega
  case h_3 hout =>
    obtain rfl := Host.Outcome.next.inj h
    refine scatterStep_group (groupStep_lane hl rfl rfl (by simp [hcur]) ?_)
    have hlt := pollOutcome_contention hout
    rw [hph, laneWork_lookback_polling hpoll, laneWork_lookback_polling (by simpa [Lane.polling] using hwalk), hcfg]
    simp only [hcur, hret]
    omega
  case h_4 =>
    obtain rfl := Host.Outcome.next.inj h
    exact scatterStep_setScatter _ (⟨⟨rfl, rfl, rfl, rfl, rfl, rfl⟩, rfl, rfl, rfl, rfl⟩) (.inr rfl)
      (.of_memOf_eq _ fun sp => by cases sp <;> rfl) (groupStep_stop hl hph hpoll rfl rfl hcur rfl)

theorem poll_step {run : ScatterRun} {w d : Nat} {g : ScatterGroup} {l : Lane} {s t : State}
    (hl : g.lanes[d]? = some l) (hph : g.phase = .lookback) (hpoll : l.polling = true)
    (h : poll run w d g l s = .next t) : ScatterStep run w g s t := by
  unfold poll at h
  refine .after_draws (loadCoherent_draws s.sortFailed run.failedOlder l.seenFailed s) ?_
  simp only at h
  split at h
  · obtain rfl := Host.Outcome.next.inj h
    exact scatterStep_group (groupStep_stop hl hph hpoll rfl rfl rfl rfl)
  · refine pollSlot_step hl ?_ hph hpoll h
    exact ⟨rfl, rfl, rfl⟩

theorem laneMove_step {run : ScatterRun} {w d : Nat} {g : ScatterGroup} {l : Lane} {s t : State}
    (hl : g.lanes[d]? = some l) (hact : l.active g.phase) (h : laneMove run w d g l s = .next t) :
    ScatterStep run w g s t := by
  rcases hact with ⟨hph, hpub⟩ | ⟨hph, hpoll⟩
  · simp only [laneMove, hph] at h
    exact publishMove_step hl hph hpub h
  · simp only [laneMove, hph] at h
    exact poll_step hl hph hpoll h

/-- Every move of an agent of a scatter that can move. -/
theorem scatterAgent_step {run : ScatterRun} {a : Agent} {s t : State} (ha : a ∈ dispatchAgents (.scatter run))
    (h : agentMove (.scatter run) a s = .next t) :
    ∃ w g, run.groups[w]? = some g ∧ ScatterStep run w g s t := by
  obtain ⟨w, g, hg, ⟨rfl, hdone, hfailed⟩ | ⟨d, l, rfl, hl, hact⟩⟩ := mem_dispatchAgents_scatter ha
  · simp only [agentMove, groupMove, hg] at h
    exact ⟨w, g, hg, scatterGroupMove_step hdone hfailed h⟩
  · simp only [agentMove, digitLaneMove, hg, hl] at h
    exact ⟨w, g, hg, laneMove_step hl hact h⟩

/-! # Every move of a dispatch -/

theorem ScatterStep.worked {run : ScatterRun} {w : Nat} {g : ScatterGroup} {s t : State}
    (hg : run.groups[w]? = some g) (h : ScatterStep run w g s t) : Worked (.scatter run) s t where
  registers := h.registers
  flag := h.flag.imp_right fun hf => ⟨hf, run, rfl⟩
  memory := h.memory.mono fun _ _ hi => hi.1
  dispatch := by
    obtain ⟨g', older, he, hstep⟩ := h.dispatch
    exact ⟨_, he, .scatter rfl rfl, Nat.add_lt_add_left (sum_zipIdx_set_lt _ hg hstep.work) 1⟩

theorem dispatchAgent_worked {e : Executing} {a : Agent} {s t : State} (ha : a ∈ dispatchAgents e)
    (h : agentMove e a s = .next t) : Worked e s t := by
  cases e with
  | zero size cleared => simp [dispatchAgents] at ha
  | histogram run =>
    obtain ⟨w, g, rfl, hg, hph⟩ := mem_dispatchAgents_histogram ha
    simp only [agentMove, groupMove, hg] at h
    exact histGroupMove_worked hg hph h
  | scan groups =>
    obtain ⟨w, g, rfl, hg, hph⟩ := mem_dispatchAgents_scan ha
    simp only [agentMove, groupMove, hg] at h
    exact scanGroupMove_worked hg hph h
  | scatter run =>
    obtain ⟨w, g, hg, hstep⟩ := scatterAgent_step ha h
    exact hstep.worked hg

end Sys2Proof.Machine

namespace Sys2Proof.Machine

/-! # The sequencer's move while a command executes -/

/-- The sequencer's move while a command executes: ZERO's stores with the flags it clears, or the completion of the
command (44_orchestrator.md R221, R227). -/
inductive Completion (s : State) : Executing → State → Prop where
  | clear (size : Nat) (inside : ∀ i < sortHistWords s.cfg size, i < spaceWords s.cfg .hist) :
      Completion s (.zero size false) (zeroClear s size)
  | zero (size : Nat) : Completion s (.zero size true) (zeroDone s)
  | histogram (run : HistRun) : Completion s (.histogram run) (histogramDone s)
  | scan (groups : List ScanGroup) : Completion s (.scan groups) (scanDone s)
  | scatterEven (run : ScatterRun) (even : run.pass % 2 = 0) : Completion s (.scatter run) (scatterEvenDone s)
  | scatterOdd (run : ScatterRun) (odd : run.pass % 2 ≠ 0) : Completion s (.scatter run) (scatterOddDone s)

theorem completeMove_next {s t : State} {e : Executing} (h : completeMove e s = .next t) : Completion s e t := by
  cases e with
  | zero size cleared =>
    cases cleared with
    | true => exact Host.Outcome.next.inj h ▸ .zero size
    | false =>
      obtain ⟨hin, h⟩ := guardSpace_next.1 h
      exact Host.Outcome.next.inj h ▸ .clear size fun i hi => hin i (List.mem_range.2 hi)
  | histogram run => exact Host.Outcome.next.inj h ▸ .histogram run
  | scan groups => exact Host.Outcome.next.inj h ▸ .scan groups
  | scatter run =>
    have ht := Host.Outcome.next.inj h
    split at ht
    · next heven => exact ht ▸ .scatterEven run heven
    · next hodd => exact ht ▸ .scatterOdd run hodd

theorem Completion.sameBus {s t : State} {e : Executing} (h : Completion s e t) : SameBus s t := by
  cases h <;> exact ⟨rfl, rfl, rfl, rfl, rfl, rfl⟩

theorem zeroStores_mem {c : Config} {size : Nat} {x : Nat × Word} (h : x ∈ zeroStores c size) :
    x.1 < sortHistWords c size := by
  obtain ⟨j, hj, rfl⟩ := List.mem_map.1 h
  exact List.mem_range.1 hj

theorem Completion.memory {s t : State} {e : Executing} (h : Completion s e t) : StoresAt (inSpace s.cfg) s t := by
  cases h with
  | clear size inside =>
    refine (storesAt_storeWords s (sp := .hist) fun x hx => inside _ (zeroStores_mem hx)).trans ?_
    exact .of_memOf_eq _ fun sp => by cases sp <;> rfl
  | _ => exact .of_memOf_eq _ fun sp => by cases sp <;> rfl

/-- Only ZERO writes SORT_FAILED in the sequencer's move. -/
theorem Completion.sortFailed {s t : State} {e : Executing} (h : Completion s e t) (he : ∀ n b, e ≠ .zero n b) :
    t.sortFailed = s.sortFailed := by
  cases h with
  | clear size _ => exact absurd rfl (he size false)
  | _ => rfl

/-- The command has ended, or ZERO has its completion left. -/
theorem Completion.executing {s t : State} {e : Executing} (h : Completion s e t) :
    t.executing = none ∨ ∃ size, e = .zero size false ∧ t.executing = some (.zero size true) := by
  cases h with
  | clear size _ => exact .inr ⟨size, rfl, rfl⟩
  | _ => exact .inl rfl

/-! # A command runs to its end -/

theorem remainingMoves_executing {s : State} {e : Executing} (h : s.executing = some e) :
    remainingMoves s = executingWork s.cfg e + s.host.length := by
  simp [remainingMoves, h]

theorem remainingMoves_none {s : State} (h : s.executing = none) : remainingMoves s = 0 := by
  simp [remainingMoves, h]

theorem executingWork_pos (c : Config) (e : Executing) : 0 < executingWork c e := by
  cases e with
  | zero size cleared => cases cleared <;> simp [executingWork]
  | histogram run => simp only [executingWork]; omega
  | scan groups => simp only [executingWork]; omega
  | scatter run => simp only [executingWork]; omega

theorem DrawsFrom.remainingMoves {s t : State} (h : DrawsFrom s t) : remainingMoves t = remainingMoves s := by
  have hbus := h.sameRegisters.toSameBus
  simp only [Machine.remainingMoves, h.executing, hbus.cfg, hbus.host]

theorem HostEffect.remainingMoves_le {s t : State} (h : HostEffect s t) : remainingMoves t ≤ remainingMoves s := by
  rcases h.executing with he | he
  · simp only [remainingMoves, he, h.cfg, h.host, le_refl]
  · simp [remainingMoves_none he]

/-- Every move of an executing command makes the bound on the moves left smaller (43_scatter.md R200). -/
theorem dispatchMove_remainingMoves_lt {s t : State} {e : Executing} (he : s.executing = some e)
    (h : dispatchMove e s = .next t) : remainingMoves t < remainingMoves s := by
  obtain ⟨s', hd, hmove⟩ := dispatchMove_cases he h
  rw [← hd.remainingMoves]
  have he' : s'.executing = some e := hd.executing.trans he
  rcases hmove with ⟨hr, hhost⟩ | hcomp | ⟨a, ha, hmove⟩
  · obtain ⟨op, rest, hops, heff⟩ := hostMove_next hr hhost
    refine heff.remainingMoves_le.trans_lt ?_
    simp [remainingMoves, he', hops]
  · have hc := completeMove_next hcomp
    have hbus := hc.sameBus
    rcases hc.executing with ht | ⟨size, rfl, ht⟩
    · have := executingWork_pos s'.cfg e
      rw [remainingMoves_none ht, remainingMoves_executing he']
      omega
    · simp [remainingMoves_executing ht, remainingMoves_executing he', hbus.host, executingWork]
  · obtain ⟨hreg, _, _, e', ht, _, hlt⟩ := dispatchAgent_worked ha hmove
    rw [remainingMoves_executing ht, remainingMoves_executing he', hreg.cfg, hreg.host]
    omega

/-- A run with as many moves as the bound leaves no command executing. -/
theorem runMoves_ends {n : Nat} {s t : State} (hn : remainingMoves s ≤ n) (h : runMoves n s = .next t) :
    t.executing = none := by
  induction n generalizing s with
  | zero =>
    obtain rfl := Host.Outcome.next.inj h
    cases he : s.executing with
    | none => rfl
    | some e =>
      have := executingWork_pos s.cfg e
      rw [remainingMoves_executing he] at hn
      omega
  | succ n ih =>
    rw [runMoves] at h
    split at h
    · next he => exact Host.Outcome.next.inj h ▸ he
    · next e he =>
      split at h
      · next s' hmove =>
        have := dispatchMove_remainingMoves_lt he hmove
        exact ih (by omega) h
      · simp at h
      · simp at h

theorem runToEnd_ends {s t : State} (h : runToEnd s = .next t) : t.executing = none := runMoves_ends le_rfl h

/-! # What a command does -/

/-- The dispatch that an accepted command starts (44_orchestrator.md R226, R232). -/
inductive Started (s : State) : Instr → State → Prop where
  | zero : Started s .zero (startZero s)
  | histogram (accepted : histogramAccepted s = true) : Started s .histogram (startHistogram s)
  | prefixScan (accepted : prefixAccepted s = true) : Started s .prefixScan (startScan s)
  | scatterEven (accepted : scatterEvenAccepted s = true) :
      Started s .scatterEven (startScatter (evenPassIndex s) s)
  | scatterOdd (accepted : scatterOddAccepted s = true) : Started s .scatterOdd (startScatter (oddPassIndex s) s)

theorem runCommand_started {i : Instr} {acc : Bool} {start : State → State} {s t : State}
    (hstart : acc = true → Started s i (start s)) (h : runCommand acc start s = .next t) :
    t = discard s ∨ ∃ s', Started s i s' ∧ sizesLegal s = true ∧ runToEnd s' = .next t := by
  rcases runCommand_next h with ⟨_, ht⟩ | ⟨hacc, hlegal, hrun⟩
  · exact .inl ht
  · exact .inr ⟨_, hstart hacc, hlegal, hrun⟩

/-- A command that does not stop is discarded, or started with legal sizes and run to its end. -/
theorem exec_next {i : Instr} {s t : State} (h : exec i s = .next t) :
    t = discard s ∨ ∃ s', Started s i s' ∧ sizesLegal s = true ∧ runToEnd s' = .next t := by
  cases i with
  | zero => exact runCommand_started (acc := true) (start := startZero) (fun _ => .zero) h
  | histogram => exact runCommand_started (start := startHistogram) .histogram h
  | prefixScan => exact runCommand_started (start := startScan) .prefixScan h
  | scatterEven => exact runCommand_started (start := startScatter (evenPassIndex s)) .scatterEven h
  | scatterOdd => exact runCommand_started (start := startScatter (oddPassIndex s)) .scatterOdd h

theorem Started.sameRegisters {i : Instr} {s t : State} (h : Started s i t) : SameRegisters s t := by
  cases h <;> exact ⟨⟨rfl, rfl, rfl, rfl, rfl, rfl⟩, rfl, rfl, rfl, rfl⟩

theorem Started.memOf {i : Instr} {s t : State} (h : Started s i t) (sp : Space) : memOf t sp = memOf s sp := by
  cases h <;> cases sp <;> rfl

theorem Started.sortFailed {i : Instr} {s t : State} (h : Started s i t) : t.sortFailed = s.sortFailed := by
  cases h <;> rfl

/-- Which command a dispatch is one of. -/
inductive RunsAs : Instr → Executing → Prop where
  | zero (size : Nat) (cleared : Bool) : RunsAs .zero (.zero size cleared)
  | histogram (run : HistRun) : RunsAs .histogram (.histogram run)
  | prefixScan (groups : List ScanGroup) : RunsAs .prefixScan (.scan groups)
  | scatterEven (run : ScatterRun) : RunsAs .scatterEven (.scatter run)
  | scatterOdd (run : ScatterRun) : RunsAs .scatterOdd (.scatter run)

theorem Started.runsAs {i : Instr} {s t : State} (h : Started s i t) : ∃ e, t.executing = some e ∧ RunsAs i e := by
  cases h <;> exact ⟨_, rfl, by constructor⟩

theorem SameDispatch.runsAs {i : Instr} {e e' : Executing} (h : SameDispatch e e') (hi : RunsAs i e) :
    RunsAs i e' := by
  cases h <;> cases hi <;> constructor

end Sys2Proof.Machine

namespace Sys2Proof.Machine

/-! # The invariant of the machine -/

theorem inv_iff (s : State) : s.inv = true ↔
    s.memOk = true ∧ s.queue.length ≤ s.cfg.queueDepth ∧ registersFit s = true ∧ executingFits s = true := by
  simp only [State.inv, Bool.and_eq_true, decide_eq_true_eq, and_assoc]

/-- With no command executing the counters are as the phase has them. -/
theorem registersFit_idle {s : State} (h : s.executing = none) :
    registersFit s = countersFit s.phase s.evenPass.toNat s.oddPass.toNat := by
  simp [registersFit, h]

theorem executingFits_idle {s : State} (h : s.executing = none) : executingFits s = true := by
  simp [executingFits, h]

/-- While a command with workgroups executes the counters are as the phase has them. -/
theorem registersFit_dispatch {s : State} {e : Executing} (h : s.executing = some e) (he : ∀ n, e ≠ .zero n true) :
    registersFit s = countersFit s.phase s.evenPass.toNat s.oddPass.toNat := by
  unfold registersFit
  rw [h]
  split
  · next n heq => exact absurd (Option.some.inj heq) (he n)
  · rfl

/-- Draws do not touch the invariant. -/
theorem DrawsFrom.inv {s t : State} (h : DrawsFrom s t) : t.inv = s.inv := by
  have hreg := h.sameRegisters
  simp only [State.inv, State.memOk, registersFit, executingFits, h.memOf, h.executing, h.sortFailed, hreg.cfg,
    hreg.queue, hreg.evenPass, hreg.oddPass, hreg.phase, hreg.cmdErr]

/-! ## The host -/

theorem resetFor_inv (c : Config) : (State.resetFor c).inv = true := by
  refine (inv_iff _).2 ⟨(memOk_iff _).2 fun sp => ?_, Nat.zero_le _, rfl, rfl⟩
  cases sp <;> exact ⟨rfl, rfl⟩

/-- A host operation keeps the invariant. -/
theorem HostEffect.inv {s t : State} (h : HostEffect s t) (hs : s.inv = true) : t.inv = true := by
  obtain ⟨hmem, hqueue, hregs, hexec⟩ := (inv_iff s).1 hs
  cases h with
  | reset => exact resetFor_inv s.cfg
  | answer v => exact hs
  | queue v room =>
    refine (inv_iff _).2 ⟨hmem, ?_, hregs, hexec⟩
    simpa using room
  | numKeys v idle =>
    have hnone := executing_none_of_idle idle
    exact (inv_iff _).2 ⟨hmem, hqueue, registersFit_idle hnone, executingFits_idle hnone⟩
  | paddedSize v idle =>
    have hnone := executing_none_of_idle idle
    exact (inv_iff _).2 ⟨hmem, hqueue, registersFit_idle hnone, executingFits_idle hnone⟩
  | store sp i v idle inside =>
    have hnone := executing_none_of_idle idle
    rw [registersFit_idle hnone] at hregs
    refine (inv_iff _).2 ⟨(storesAt_storeWord s (P := inSpace s.cfg) inside v).memOk (by simp) hmem,
      by simpa using hqueue, ?_, executingFits_idle (by simpa using hnone)⟩
    rw [registersFit_idle (by simpa using hnone)]
    simpa using hregs

/-! ## The executing command -/

/-- A dispatch that fits stays fitting while its workgroups move. -/
theorem SameDispatch.executingFits {s t : State} {e e' : Executing} (h : SameDispatch e e') (hs : s.executing = some e)
    (ht : t.executing = some e') (hreg : SameRegisters s t) : executingFits t = executingFits s := by
  unfold Machine.executingFits
  rw [hs, ht, hreg.phase, hreg.evenPass, hreg.oddPass]
  cases h with
  | histogram => rfl
  | scan => rfl
  | scatter hpass => simp only [hpass]

/-- A dispatch with workgroups is none of ZERO. -/
theorem SameDispatch.ne_zero {e e' : Executing} (h : SameDispatch e e') (n : Nat) (b : Bool) :
    e ≠ .zero n b ∧ e' ≠ .zero n b := by
  cases h <;> simp

/-- A move of a workgroup or a lane keeps the invariant. -/
theorem Worked.inv {e : Executing} {s t : State} (h : Worked e s t) (he : s.executing = some e) (hs : s.inv = true) :
    t.inv = true := by
  obtain ⟨hmem, hqueue, hregs, hexec⟩ := (inv_iff s).1 hs
  obtain ⟨hreg, _, hstores, e', ht, hsame, _⟩ := h
  refine (inv_iff t).2 ⟨hstores.memOk hreg.cfg hmem, ?_, ?_, ?_⟩
  · rw [hreg.queue, hreg.cfg]
    exact hqueue
  · rw [registersFit_dispatch he fun n => (hsame.ne_zero n true).1] at hregs
    rw [registersFit_dispatch ht fun n => (hsame.ne_zero n true).2, hreg.phase, hreg.evenPass, hreg.oddPass]
    exact hregs
  · rw [hsame.executingFits he ht hreg]
    exact hexec

theorem countersFit_zeroed (even odd : Nat) : countersFit .zeroed even odd = true ↔ even = 0 ∧ odd = 0 := by
  simp [countersFit]

theorem countersFit_histogrammed (even odd : Nat) :
    countersFit .histogrammed even odd = true ↔ even = 0 ∧ odd = 0 := by
  simp [countersFit]

theorem countersFit_scanned (even odd : Nat) :
    countersFit .scanned even odd = true ↔ odd ≤ even ∧ even ≤ odd + 1 ∧ odd ≤ 1 := by
  simp [countersFit, and_assoc]

theorem countersFit_sorted (even odd : Nat) : countersFit .sorted even odd = true ↔ even = 2 ∧ odd = 2 := by
  simp [countersFit]

/-- Between ZERO's stores and its completion the counters are cleared already. -/
theorem registersFit_cleared {s : State} {n : Nat} (h : s.executing = some (.zero n true))
    (hregs : registersFit s = true) : s.evenPass = 0 ∧ s.oddPass = 0 := by
  simp only [registersFit, h, Bool.and_eq_true, beq_iff_eq] at hregs
  obtain ⟨⟨⟨heven, hodd⟩, _⟩, _⟩ := hregs
  exact ⟨heven, hodd⟩

/-- A scatter that fits executes in PHASE 3, with the pass its counter gives (44_orchestrator.md R226, R232). -/
theorem executingFits_scatter {s : State} {run : ScatterRun} (h : s.executing = some (.scatter run)) :
    executingFits s = true ↔ s.phase = .scanned ∧
      ((run.pass = 2 * s.evenPass.toNat ∧ s.evenPass.toNat = s.oddPass.toNat ∧ s.evenPass.toNat ≤ 1)
        ∨ (run.pass = 2 * s.oddPass.toNat + 1 ∧ s.evenPass.toNat = s.oddPass.toNat + 1)) := by
  simp [executingFits, h, and_assoc]

/-- A pass counter that has not reached its last value does not wrap. -/
theorem counter_succ {v : Word} (h : v.toNat ≤ 1) : (v + 1).toNat = v.toNat + 1 := by
  bv_omega

/-- The counters and the phase after a completion fit (44_orchestrator.md R227, R228). -/
theorem Completion.registersFit {e : Executing} {s t : State} (h : Completion s e t) (he : s.executing = some e)
    (hregs : registersFit s = true) (hexec : executingFits s = true) : registersFit t = true := by
  cases h with
  | clear size _ => rfl
  | zero size =>
    obtain ⟨heven, hodd⟩ := registersFit_cleared he hregs
    rw [registersFit_idle rfl]
    simp [heven, hodd, countersFit]
  | histogram run =>
    have hph : s.phase = .zeroed := by simpa [executingFits, he] using hexec
    rw [registersFit_dispatch he (by simp), hph, countersFit_zeroed] at hregs
    rw [registersFit_idle rfl]
    exact (countersFit_histogrammed _ _).2 hregs
  | scan groups =>
    have hph : s.phase = .histogrammed := by simpa [executingFits, he] using hexec
    rw [registersFit_dispatch he (by simp), hph, countersFit_histogrammed] at hregs
    rw [registersFit_idle rfl]
    refine (countersFit_scanned _ _).2 ?_
    simp only [scanDone_evenPass, scanDone_oddPass]
    omega
  | scatterEven run even =>
    obtain ⟨hph, hpass⟩ := (executingFits_scatter he).1 hexec
    have hle : s.evenPass.toNat ≤ 1 := by omega
    rw [registersFit_idle rfl, scatterEvenDone_phase, hph, countersFit_scanned]
    simp only [scatterEvenDone_evenPass, scatterEvenDone_oddPass, counter_succ hle]
    omega
  | scatterOdd run odd =>
    obtain ⟨hph, hpass⟩ := (executingFits_scatter he).1 hexec
    rw [registersFit_dispatch he (by simp), hph, countersFit_scanned] at hregs
    have hsucc := counter_succ (v := s.oddPass) (by omega)
    rw [registersFit_idle rfl, scatterOddDone_phase, hph]
    simp only [scatterOddDone_evenPass, scatterOddDone_oddPass, hsucc]
    split
    · next hlast =>
      have : (s.oddPass + 1).toNat = 2 := by rw [hlast]; rfl
      rw [countersFit_sorted]
      omega
    · next hlast =>
      have : (s.oddPass + 1).toNat ≠ 2 := fun h => hlast (BitVec.eq_of_toNat_eq h)
      rw [countersFit_scanned]
      omega

/-- The sequencer's move keeps the invariant. -/
theorem Completion.inv {e : Executing} {s t : State} (h : Completion s e t) (he : s.executing = some e)
    (hs : s.inv = true) : t.inv = true := by
  obtain ⟨hmem, hqueue, hregs, hexec⟩ := (inv_iff s).1 hs
  have hbus := h.sameBus
  refine (inv_iff t).2 ⟨h.memory.memOk hbus.cfg hmem, ?_, h.registersFit he hregs hexec, ?_⟩
  · rw [hbus.queue, hbus.cfg]
    exact hqueue
  · rcases h.executing with ht | ⟨n, _, ht⟩
    · exact executingFits_idle ht
    · simp [executingFits, ht]

/-- Every move while a command executes keeps the invariant. -/
theorem dispatchMove_inv {e : Executing} {s t : State} (he : s.executing = some e) (hs : s.inv = true)
    (h : dispatchMove e s = .next t) : t.inv = true := by
  obtain ⟨s', hd, hmove⟩ := dispatchMove_cases he h
  have he' : s'.executing = some e := hd.executing.trans he
  rw [← hd.inv] at hs
  rcases hmove with ⟨hr, hhost⟩ | hcomp | ⟨a, ha, hmove⟩
  · obtain ⟨op, rest, _, heff⟩ := hostMove_next hr hhost
    exact heff.inv hs
  · exact (completeMove_next hcomp).inv he' hs
  · exact (dispatchAgent_worked ha hmove).inv he' hs

/-! ## A command, and a step -/

/-- An accepted command starts a dispatch that the phase lets start. -/
theorem Started.executingFits {i : Instr} {s t : State} (h : Started s i t) : executingFits t = true := by
  cases h with
  | zero => rfl
  | histogram accepted => exact accepted
  | prefixScan accepted => exact accepted
  | scatterEven accepted =>
    simp only [scatterEvenAccepted, Bool.and_eq_true, beq_iff_eq, decide_eq_true_eq] at accepted
    obtain ⟨⟨hph, heq⟩, hle⟩ := accepted
    exact (executingFits_scatter rfl).2 ⟨hph, .inl ⟨rfl, congrArg BitVec.toNat heq, hle⟩⟩
  | scatterOdd accepted =>
    simp only [scatterOddAccepted, Bool.and_eq_true, beq_iff_eq] at accepted
    exact (executingFits_scatter rfl).2 ⟨accepted.1, .inr ⟨rfl, accepted.2⟩⟩

theorem Started.inv {i : Instr} {s t : State} (h : Started s i t) (hidle : s.executing = none) (hs : s.inv = true) :
    t.inv = true := by
  obtain ⟨hmem, hqueue, hregs, _⟩ := (inv_iff s).1 hs
  have hreg := h.sameRegisters
  have hstores : StoresAt (inSpace s.cfg) s t := .of_memOf_eq _ h.memOf
  refine (inv_iff t).2 ⟨hstores.memOk hreg.cfg hmem, ?_, ?_, h.executingFits⟩
  · rw [hreg.queue, hreg.cfg]
    exact hqueue
  · rw [registersFit_idle hidle, ← hreg.phase, ← hreg.evenPass, ← hreg.oddPass] at hregs
    obtain ⟨e, he, hne⟩ : ∃ e, t.executing = some e ∧ ∀ n, e ≠ .zero n true := by
      cases h <;> exact ⟨_, rfl, by simp⟩
    rwa [registersFit_dispatch he hne]

theorem discard_inv {s : State} (hidle : s.executing = none) : (discard s).inv = s.inv := by
  simp only [State.inv, registersFit_idle hidle, registersFit_idle (s := discard s) hidle]
  rfl

/-- Every command keeps the invariant. -/
theorem exec_inv {i : Instr} {s t : State} (hidle : s.executing = none) (hs : s.inv = true)
    (h : exec i s = .next t) : t.inv = true := by
  rcases exec_next h with rfl | ⟨s', hstart, _, hrun⟩
  · rwa [discard_inv hidle]
  · exact runMoves_keeps (P := fun u => u.inv = true) (fun _ _ _ he hu hmove => dispatchMove_inv he hu hmove)
      (hstart.inv hidle hs) hrun

/-- A shorter queue fits as well. -/
theorem inv_dequeue {s : State} {c : Word} {rest : List Word} (hq : s.queue = c :: rest) (hs : s.inv = true) :
    State.inv { s with queue := rest } = true := by
  obtain ⟨hmem, hqueue, hregs, hexec⟩ := (inv_iff s).1 hs
  rw [hq, List.length_cons] at hqueue
  exact (inv_iff _).2 ⟨hmem, by simpa using by omega, hregs, hexec⟩

/-- With no command executing the sequencer discards the head of the queue or runs the command it holds. -/
theorem sequencerMove_next {s t : State} (h : sequencerMove s = .next t) :
    t = s ∨ ∃ c rest, s.queue = c :: rest ∧
      (t = discard { s with queue := rest } ∨ ∃ i, exec i { s with queue := rest } = .next t) := by
  unfold sequencerMove fetch at h
  cases hq : s.queue with
  | nil =>
    simp only [hq] at h
    exact .inl (Host.Outcome.next.inj h).symm
  | cons c rest =>
    refine .inr ⟨c, rest, rfl, ?_⟩
    simp only [hq] at h
    cases hdec : decode c with
    | error _ =>
      simp only [hdec] at h
      exact .inl (Host.Outcome.next.inj h).symm
    | ok i =>
      simp only [hdec] at h
      exact .inr ⟨i, h⟩

theorem sequencerMove_inv {s t : State} (hidle : s.executing = none) (hs : s.inv = true)
    (h : sequencerMove s = .next t) : t.inv = true := by
  rcases sequencerMove_next h with rfl | ⟨c, rest, hq, rfl | ⟨i, hexec⟩⟩
  · exact hs
  · exact (discard_inv (s := { s with queue := rest }) hidle).trans (inv_dequeue hq hs)
  · exact exec_inv (s := { s with queue := rest }) hidle (inv_dequeue hq hs) hexec

/-- Settles O26: each kind of step (a move of the executing command, of the host, of the sequencer) keeps the
invariant. -/
theorem everyStepKeepsTheInvariant : Obligations.EveryStepKeepsTheInvariant := by
  intro s t hs h
  rcases step_next h with ⟨e, he, hmove⟩ | ⟨_, rfl⟩ | ⟨_, s', hd, hr, hhost⟩ | ⟨hidle, s', hd, _, hseq⟩
  · exact dispatchMove_inv he hs hmove
  · exact hs
  · obtain ⟨op, rest, _, heff⟩ := hostMove_next (hd.hostReady.trans hr) hhost
    exact heff.inv (hd.inv.trans hs)
  · exact sequencerMove_inv (hd.executing.trans hidle) (hd.inv.trans hs) hseq

end Sys2Proof.Machine

namespace Sys2Proof.Machine

/-! # What commands leave alone -/

/-- With no host operation pending, every move of an executing command leaves the sizes, the queue and the host
alone. -/
theorem engineMove_sameBus {e : Executing} {s t : State} (he : s.executing = some e) (hhost : s.host = [])
    (h : dispatchMove e s = .next t) : SameBus s t := by
  obtain ⟨s', hd, hmove⟩ := dispatchMove_cases he h
  have hbus := hd.sameRegisters.toSameBus
  rcases hmove with ⟨hr, _⟩ | hcomp | ⟨a, ha, hmove⟩
  · simp [hostReady_nil (hbus.host.trans hhost)] at hr
  · exact hbus.trans (completeMove_next hcomp).sameBus
  · exact hbus.trans (dispatchAgent_worked ha hmove).registers.toSameBus

/-- Settles O32: no move of a command writes a size, the queue, or the host's list or answers. -/
theorem commandsLeaveSizesAndQueueAlone : Obligations.CommandsLeaveSizesAndQueueAlone := by
  intro i s t hhost _ h
  have hbus : SameBus s t := by
    rcases exec_next h with rfl | ⟨s', hstart, _, hrun⟩
    · exact ⟨rfl, rfl, rfl, rfl, rfl, rfl⟩
    · exact runMoves_keeps (P := SameBus s)
        (fun _ _ _ he hu hmove => hu.trans (engineMove_sameBus he (hu.host.trans hhost) hmove))
        hstart.sameRegisters.toSameBus hrun
  exact ⟨hbus.numKeys, hbus.paddedSize, hbus.queue, hbus.host, hbus.reads⟩

/-- t lies on a run of command i from s that has left SORT_FAILED as it was, or set it in a scatter. -/
structure FlagKept (i : Instr) (s t : State) : Prop where
  host : t.host = []
  flag : t.sortFailed = s.sortFailed ∨ (t.sortFailed = 1 ∧ (i = .scatterEven ∨ i = .scatterOdd))
  command : ∀ e, t.executing = some e → RunsAs i e

theorem RunsAs.of_scatter {i : Instr} {run : ScatterRun} (h : RunsAs i (.scatter run)) :
    i = .scatterEven ∨ i = .scatterOdd := by
  cases h <;> simp

theorem RunsAs.of_zero {i : Instr} {n : Nat} {b : Bool} (h : RunsAs i (.zero n b)) : i = .zero := by
  cases h
  rfl

/-- Every move of a command but ZERO leaves SORT_FAILED, or is a scatter's and sets it. -/
theorem FlagKept.dispatchMove {i : Instr} {e : Executing} {s u t : State} (hu : FlagKept i s u) (hi : i ≠ .zero)
    (he : u.executing = some e) (h : dispatchMove e u = .next t) : FlagKept i s t := by
  have hbus := engineMove_sameBus he hu.host h
  have hrun := hu.command e he
  have hzero : ∀ n b, e ≠ .zero n b := by
    rintro n b rfl
    exact hi (hrun.of_zero)
  obtain ⟨u', hd, hmove⟩ := dispatchMove_cases he h
  rcases hmove with ⟨hr, _⟩ | hcomp | ⟨a, ha, hmove⟩
  · simp [hd.hostReady, hostReady_nil hu.host] at hr
  · have hc := completeMove_next hcomp
    refine ⟨hbus.host.trans hu.host, ?_, ?_⟩
    · rw [hc.sortFailed hzero, hd.sortFailed]
      exact hu.flag
    · rcases hc.executing with ht | ⟨n, heq, _⟩
      · simp [ht]
      · exact absurd heq (hzero n false)
  · obtain ⟨_, hflag, _, e', ht, hsame, _⟩ := dispatchAgent_worked ha hmove
    refine ⟨hbus.host.trans hu.host, ?_, ?_⟩
    · rcases hflag with hflag | ⟨hflag, run, rfl⟩
      · rw [hflag, hd.sortFailed]
        exact hu.flag
      · exact .inr ⟨hflag, hrun.of_scatter⟩
    · rintro e'' he''
      obtain rfl := Option.some.inj (ht.symm.trans he'')
      exact hsame.runsAs hrun

/-- Settles O33: the only move that clears SORT_FAILED is ZERO's. -/
theorem onlyZeroClearsSortFailed : Obligations.OnlyZeroClearsSortFailed := by
  intro i s t hhost _ h hi
  rcases exec_next h with rfl | ⟨s', hstart, _, hrun⟩
  · exact .inl rfl
  · have hinit : FlagKept i s s' := by
      refine ⟨hstart.sameRegisters.host.trans hhost, .inl hstart.sortFailed, fun e he => ?_⟩
      obtain ⟨e', he', hruns⟩ := hstart.runsAs
      exact Option.some.inj (he'.symm.trans he) ▸ hruns
    exact (runMoves_keeps (P := FlagKept i s) (fun _ _ _ he hu hmove => hu.dispatchMove hi he hmove) hinit hrun).flag

/-- Settles O31: remainingMoves bounds the run of every command. -/
theorem commandsRunToTheirEnd : Obligations.CommandsRunToTheirEnd := by
  intro i s t hidle h
  rcases exec_next h with rfl | ⟨s', _, _, hrun⟩
  · exact hidle
  · exact runToEnd_ends hrun

/-- Settles O23: only the host writes the queue while a command executes, and it appends a word or resets. -/
theorem executingCommandDequeuesNothing : Obligations.ExecutingCommandDequeuesNothing := by
  intro s t e he h
  obtain ⟨s', hd, hmove⟩ := dispatchMove_cases he h
  have hbus := hd.sameRegisters.toSameBus
  have he' : s'.executing = some e := hd.executing.trans he
  have same : t.queue = s'.queue → ∃ ws, t.queue = s.queue ++ ws := fun hq => ⟨[], by simp [hq, hbus.queue]⟩
  rcases hmove with ⟨hr, hhost⟩ | hcomp | ⟨a, ha, hmove⟩
  · obtain ⟨op, rest, _, heff⟩ := hostMove_next hr hhost
    have hbusy : busy { s' with host := rest } = true := busy_of_executing he'
    cases heff with
    | reset => exact .inr ⟨rfl, rfl, rfl⟩
    | answer v => exact .inl (same rfl)
    | queue v _ => exact .inl ⟨[v], by simp [hbus.queue]⟩
    | numKeys v idle => simp [hbusy] at idle
    | paddedSize v idle => simp [hbusy] at idle
    | store sp i v idle inside => simp [hbusy] at idle
  · exact .inl (same (completeMove_next hcomp).sameBus.queue)
  · exact .inl (same (dispatchAgent_worked ha hmove).registers.queue)

/-! # Reset, STATUS, and a scatter's start -/

/-- Settles O25: no space lists a byte, no word is queued, and PHASE 0 leaves the counters free. -/
theorem resetMeetsTheInvariant : Obligations.ResetMeetsTheInvariant := resetFor_inv

/-- Settles O11: after reset no agent can move. -/
theorem resetLeavesTheBlockWaiting : Obligations.ResetLeavesTheBlockWaiting := by
  intro c
  have hnobody : enabledAgents (State.resetFor c) = [] := rfl
  have hstatus : statusWord (State.resetFor c) = statusWord State.reset := rfl
  refine ⟨hstatus.trans (by decide), rfl, rfl, ?_⟩
  change idleMove (State.resetFor c) = _
  rw [idleMove, hnobody]
  rfl

theorem busy_iff (s : State) : busy s = true ↔ s.queue ≠ [] ∨ s.executing ≠ none := by
  simp [busy, Option.isSome_iff_ne_none]

theorem phaseBits_le (ph : Phase) : (phaseBits ph).toNat ≤ 4 := by cases ph <;> decide

/-- Fields put together at bits 4, [3:1] and 0 add up (10_state.md R27 to R30). -/
theorem statusBits_toNat (err b : Bool) (ph : BitVec 3) :
    ((0 : BitVec 27) ++ BitVec.ofBool err ++ ph ++ BitVec.ofBool b : Word).toNat
      = b.toNat + 2 * ph.toNat + 16 * err.toNat := by
  simp only [BitVec.toNat_append]
  revert err b ph
  decide

/-- Settles O13: STATUS is its three fields put together. -/
theorem statusWordIsItsFields : Obligations.StatusWordIsItsFields := by
  intro s
  refine ⟨?_, phaseBits_le s.phase⟩
  rw [statusWord, statusBits_toNat]
  congr 1
  · congr 1
    simp [← busy_iff, Bool.toNat, Bool.cond_eq_ite]
  · cases s.cmdErr <;> rfl

/-- Every lane of a workgroup at its start is in its initial state. -/
theorem scatterGroupStart_lane {s : State} {w : Nat} {l : Lane} (h : l ∈ (scatterGroupStart s w).lanes) :
    l = laneStart w := List.eq_of_mem_replicate h

theorem freeArray_length (s : State) (arr w n : Nat) : (freeArray s arr w n).length = n := by simp [freeArray]

/-- A workgroup at its start has the shape that every move keeps. -/
theorem scatterGroupStart_fits (budget : Nat) (s : State) (w : Nat) :
    groupFits budget w (scatterGroupStart s w) = true := by
  have hall : (scatterGroupStart s w).lanes.all (laneFits budget w .load) = true :=
    List.all_eq_true.2 fun l hl => by simp [laneFits, scatterGroupStart_lane hl]
  have hany : (scatterGroupStart s w).lanes.any Lane.lost = false :=
    List.any_eq_false.2 fun l hl => by simp [Lane.lost, laneStart, scatterGroupStart_lane hl]
  have hlen : (scatterGroupStart s w).lanes.length = 256 := List.length_replicate
  have hphase : (scatterGroupStart s w).phase = .load := rfl
  have hflag : (scatterGroupStart s w).scatterFailed = false := rfl
  simp [groupFits, hall, hany, hlen, hphase, hflag]

/-- The workgroups that a scatter of pass p starts with (43_scatter.md R173). -/
def startGroups (s : State) : List ScatterGroup :=
  (List.range (scatterGrid s.cfg s.paddedSize.toNat)).map (scatterGroupStart s)

theorem startScatter_executing (p : Nat) (s : State) : (startScatter p s).executing
    = some (.scatter { pass := p, size := s.paddedSize.toNat, groups := startGroups s, failedOlder := [] }) := rfl

theorem startGroups_getElem? {s : State} {w : Nat} {g : ScatterGroup} (h : (startGroups s)[w]? = some g) :
    w < scatterGrid s.cfg s.paddedSize.toNat ∧ g = scatterGroupStart s w := by
  simp only [startGroups, List.getElem?_map, Option.map_eq_some_iff] at h
  obtain ⟨v, hv, rfl⟩ := h
  obtain ⟨hlt, rfl⟩ := List.getElem?_eq_some_iff.1 hv
  simpa using hlt

/-- Before any move no lane has stored a partition word. -/
theorem startScatter_wordsFit (p : Nat) (s t : State) :
    wordsFit t { pass := p, size := s.paddedSize.toNat, groups := startGroups s, failedOlder := [] } = true := by
  refine List.all_eq_true.2 fun x hx => ?_
  obtain ⟨_, hg⟩ := startGroups_getElem? (List.mem_zipIdx_iff_getElem?.1 hx)
  rw [hg, Bool.and_eq_true]
  refine ⟨beq_iff_eq.2 (freeArray_length s 8 x.2 256), List.all_eq_true.2 fun y hy => ?_⟩
  rw [scatterGroupStart_lane (List.mem_of_getElem? (List.mem_zipIdx_iff_getElem?.1 hy))]
  rfl

/-- Settles O28: every workgroup and lane is the one its index starts with. -/
theorem startedScatterHasItsShape : Obligations.StartedScatterHasItsShape := by
  intro s p
  refine ⟨_, startScatter_executing p s, rfl, rfl, rfl, by simp [startGroups, scatterGrid], ?_,
    fun w => ⟨rfl, rfl, rfl, rfl, rfl⟩, ?_, startScatter_wordsFit p s _⟩
  · intro w g hg
    obtain ⟨_, rfl⟩ := startGroups_getElem? hg
    exact ⟨rfl, rfl, rfl⟩
  · refine List.all_eq_true.2 fun x hx => ?_
    obtain ⟨_, hg⟩ := startGroups_getElem? (List.mem_zipIdx_iff_getElem?.1 hx)
    rw [hg]
    exact scatterGroupStart_fits _ s x.2

end Sys2Proof.Machine

namespace Sys2Proof.Machine

/-! # An accepted scatter ends inside its bounds -/

/-! ## Indices inside the spaces -/

theorem spaceWords_roles (c : Config) (p : Nat) : spaceWords c (sourceKeys p) = c.cap ∧ spaceWords c (sourcePay p) = c.cap
    ∧ spaceWords c (destKeys p) = c.cap ∧ spaceWords c (destPay p) = c.cap := by
  rcases Nat.mod_two_eq_zero_or_one p with hp | hp
  · obtain ⟨h1, h2, h3, h4⟩ := roles_even hp
    simp [h1, h2, h3, h4, spaceWords]
  · obtain ⟨h1, h2, h3, h4⟩ := roles_odd hp
    simp [h1, h2, h3, h4, spaceWords]

theorem dest_ne_hist (p : Nat) : destKeys p ≠ .hist ∧ destPay p ≠ .hist := by
  rcases Nat.mod_two_eq_zero_or_one p with hp | hp
  · obtain ⟨_, _, h3, h4⟩ := roles_even hp
    simp [h3, h4]
  · obtain ⟨_, _, h3, h4⟩ := roles_odd hp
    simp [h3, h4]

theorem scatterTile_inside {c : Config} {size w i : Nat} (hsize : size ≤ c.cap) (hw : w < scatterGrid c size)
    (hi : i ∈ scatterTile c w) : i < c.cap := by
  obtain ⟨o, ho, rfl⟩ := List.mem_map.1 hi
  have ho : o < c.tileS := List.mem_range.1 ho
  have hle : (w + 1) * c.tileS ≤ size := (Nat.mul_le_mul_right _ hw).trans (Nat.div_mul_le_self _ _)
  rw [Nat.succ_mul] at hle
  omega

theorem pidx_inside {c : Config} {size w v d : Nat} (hsize : size ≤ c.cap) (hw : w < scatterGrid c size) (hv : v ≤ w)
    (hd : d < 256) : pidx v d < spaceWords c .hist := by
  have hle : scatterGrid c size ≤ c.pMax := Nat.div_le_div_right hsize
  simp only [pidx, spaceWords]
  omega

theorem hidx_inside (c : Config) {p d : Nat} (hp : p < 4) (hd : d < 256) : hidx p d < spaceWords c .hist := by
  simp only [hidx, spaceWords]
  omega

/-! ## What bounds a scatter -/

/-- A scatter of pass p whose workgroups, lanes and cursors lie inside what n elements allow. -/
structure ScatterBounds (c : Config) (p n : Nat) (run : ScatterRun) : Prop where
  pass : run.pass = p
  size : run.size = n
  groups : run.groups.length = scatterGrid c n
  fits : ∀ (w : Nat) (g : ScatterGroup), run.groups[w]? = some g → g.lanes.length = 256 ∧ g.cursorsFit w

theorem startScatter_bounds (p : Nat) (s : State) : ScatterBounds s.cfg p s.paddedSize.toNat
    { pass := p, size := s.paddedSize.toNat, groups := startGroups s, failedOlder := [] } where
  pass := rfl
  size := rfl
  groups := by simp [startGroups]
  fits := by
    intro w g hg
    obtain ⟨_, rfl⟩ := startGroups_getElem? hg
    exact ⟨List.length_replicate, fun hph => nomatch hph⟩

/-- A move of a workgroup keeps the bounds. -/
theorem ScatterBounds.setGroup {c : Config} {p size budget w : Nat} {run : ScatterRun} {g g' : ScatterGroup}
    {older : List Word} (h : ScatterBounds c p size run) (hg : run.groups[w]? = some g)
    (hstep : GroupStep budget w g g') : ScatterBounds c p size { run.setGroup w g' with failedOlder := older } where
  pass := h.pass
  size := h.size
  groups := by simpa [ScatterRun.setGroup] using h.groups
  fits := by
    intro v g₁ hv
    simp only [ScatterRun.setGroup, List.getElem?_set] at hv
    split at hv
    · next heq =>
      subst heq
      obtain ⟨hlen, hcur⟩ := h.fits w g hg
      obtain ⟨_, rfl⟩ : _ ∧ g' = g₁ := by simpa using hv
      exact ⟨hstep.lanes.trans hlen, hstep.cursors hcur⟩
    · exact h.fits v g₁ hv

theorem ScatterBounds.group_lt {c : Config} {p size w : Nat} {run : ScatterRun} {g : ScatterGroup}
    (h : ScatterBounds c p size run) (hg : run.groups[w]? = some g) : w < scatterGrid c size :=
  h.groups ▸ (List.getElem?_eq_some_iff.1 hg).1

/-! ## Every move inside the bounds answers a next state -/

section Total

variable {p size w d : Nat} {run : ScatterRun} {g : ScatterGroup} {l : Lane} {s : State}

theorem scatterGroupMove_total (hrun : ScatterBounds s.cfg p size run) (hsize : size ≤ s.cfg.cap)
    (hg : run.groups[w]? = some g) : ∃ t, scatterGroupMove run w g s = .next t := by
  obtain ⟨hsk, hsp, hdk, hdp⟩ := spaceWords_roles s.cfg run.pass
  unfold scatterGroupMove
  cases g.phase with
  | load =>
    have hin : ∀ i ∈ scatterTile s.cfg w, i < s.cfg.cap := fun i => scatterTile_inside hsize (hrun.group_lt hg)
    exact ⟨_, (guardSpace_inside (hsk ▸ hin)).trans (guardSpace_inside (hsp ▸ hin))⟩
  | write =>
    have hle : run.size ≤ s.cfg.cap := hrun.size ▸ hsize
    exact ⟨_, (guardSpace_stored (hdk ▸ hle)).trans (guardSpace_stored (hdp ▸ hle))⟩
  | _ => exact ⟨_, rfl⟩

/-- A guard on one word inside its space. -/
theorem guardSpace_word {sp : Space} {i : Nat} {k : Result} (hi : i < spaceWords s.cfg sp) :
    guardSpace s sp [i] k = k := guardSpace_inside (by simpa using hi)

theorem publishMove_total (hp : run.pass < 4) (hd : d < 256) (hin : pidx w d < spaceWords s.cfg .hist) :
    ∃ t, publishMove run w d g l s = .next t := by
  unfold publishMove
  cases l.lstate with
  | waiting =>
    simp only
    split
    · exact ⟨_, guardSpace_word (hidx_inside s.cfg hp hd)⟩
    · exact ⟨_, guardSpace_word hin⟩
  | based => exact ⟨_, guardSpace_word hin⟩
  | _ => exact ⟨_, rfl⟩

theorem pollSlot_total (hcur : pidx l.cursor d < spaceWords s.cfg .hist) (hin : pidx w d < spaceWords s.cfg .hist) :
    ∃ t, pollSlot run w d g l s = .next t := by
  have hcfg := (loadCoherent_draws (loadWord s .hist (pidx l.cursor d)) (slotOlder run l.cursor d) l.seenSlot
    s).sameRegisters.cfg
  rw [← hcfg] at hin
  unfold pollSlot
  rw [guardSpace_word hcur]
  simp only
  split
  · exact ⟨_, guardSpace_word hin⟩
  · exact ⟨_, rfl⟩
  · exact ⟨_, rfl⟩
  · exact ⟨_, rfl⟩

theorem poll_total (hcur : pidx l.cursor d < spaceWords s.cfg .hist) (hin : pidx w d < spaceWords s.cfg .hist) :
    ∃ t, poll run w d g l s = .next t := by
  have hcfg := (loadCoherent_draws s.sortFailed run.failedOlder l.seenFailed s).sameRegisters.cfg
  rw [← hcfg] at hcur hin
  unfold poll
  simp only
  split
  · exact ⟨_, rfl⟩
  · exact pollSlot_total hcur hin

theorem laneMove_total (hrun : ScatterBounds s.cfg p size run) (hp : p < 4) (hsize : size ≤ s.cfg.cap)
    (hg : run.groups[w]? = some g) (hl : g.lanes[d]? = some l) : ∃ t, laneMove run w d g l s = .next t := by
  obtain ⟨hlen, hcur⟩ := hrun.fits w g hg
  have hw := hrun.group_lt hg
  have hd : d < 256 := hlen ▸ (List.getElem?_eq_some_iff.1 hl).1
  have hin := pidx_inside hsize hw le_rfl hd
  unfold laneMove
  cases hph : g.phase with
  | publish => exact publishMove_total (hrun.pass ▸ hp) hd hin
  | lookback => exact poll_total (pidx_inside hsize hw (hcur hph l (List.mem_of_getElem? hl)) hd) hin
  | _ => exact ⟨_, rfl⟩

/-- Every agent of a scatter inside its bounds has a move. -/
theorem scatterAgent_total (hrun : ScatterBounds s.cfg p size run) (hp : p < 4) (hsize : size ≤ s.cfg.cap) {a : Agent}
    (ha : a ∈ dispatchAgents (.scatter run)) : ∃ t, agentMove (.scatter run) a s = .next t := by
  obtain ⟨w, g, hg, ⟨rfl, _⟩ | ⟨d, l, rfl, hl, _⟩⟩ := mem_dispatchAgents_scatter ha
  · simp only [agentMove, groupMove, hg]
    exact scatterGroupMove_total hrun hsize hg
  · simp only [agentMove, digitLaneMove, hg, hl]
    exact laneMove_total hrun hp hsize hg hl

end Total

/-- Where every agent that can move has a move, whatever the draws, so has the dispatch. -/
theorem dispatchMove_total {e : Executing} {s : State} (he : s.executing = some e)
    (hall : ∀ a ∈ enabledAgents s, ∀ s', DrawsFrom s s' → ∃ t, agentMove e a s' = .next t) :
    ∃ t, dispatchMove e s = .next t := by
  have hne : enabledAgents s ≠ [] := fun hnil => engineAgents_nonempty he (List.append_eq_nil_iff.1 hnil).1
  obtain ⟨a, s', hpick⟩ := pick_isSome hne s
  obtain ⟨ha, hd⟩ := pick_some hpick
  obtain ⟨t, ht⟩ := hall a ha s' hd
  exact ⟨t, by simpa [dispatchMove, hpick] using ht⟩

/-- Where every state with P has a next move that keeps P, a run answers a state with P. -/
theorem runMoves_total {P : State → Prop}
    (hP : ∀ s e, P s → s.executing = some e → ∃ t, dispatchMove e s = .next t ∧ P t) (n : Nat) {s : State}
    (hs : P s) : ∃ t, runMoves n s = .next t ∧ P t := by
  induction n generalizing s with
  | zero => exact ⟨s, rfl, hs⟩
  | succ n ih =>
    cases he : s.executing with
    | none => exact ⟨s, runMoves_idle he _, hs⟩
    | some e =>
      obtain ⟨s', hmove, hs'⟩ := hP s e hs he
      obtain ⟨t, hrun, ht⟩ := ih hs'
      exact ⟨t, by simpa [runMoves, he, hmove] using hrun, ht⟩

/-! ## The pass as a whole -/

/-- The words that pass p of s may store to: the partition words of its workgroups, and the destination below
PADDED_SIZE. -/
def passTarget (s : State) (p : Nat) (sp : Space) (i : Nat) : Prop :=
  (sp = .hist ∧ 1024 ≤ i ∧ i < sortHistWords s.cfg s.paddedSize.toNat)
    ∨ ((sp = destKeys p ∨ sp = destPay p) ∧ i < s.paddedSize.toNat)

theorem scatterTarget_passTarget {s : State} {p w : Nat} {run : ScatterRun} {g : ScatterGroup} {sp : Space} {i : Nat}
    (hrun : ScatterBounds s.cfg p s.paddedSize.toNat run) (hg : run.groups[w]? = some g)
    (h : scatterTarget run w g.lanes.length sp i) : passTarget s p sp i := by
  obtain ⟨hlen, _⟩ := hrun.fits w g hg
  have hw := hrun.group_lt hg
  rcases h with ⟨rfl, d, hd, rfl⟩ | ⟨hsp, hi⟩
  · refine .inl ⟨rfl, ?_⟩
    simp only [pidx, sortHistWords]
    omega
  · exact .inr ⟨hrun.pass ▸ hsp, hrun.size ▸ hi⟩

/-- Pass p of s, in the middle (its registers as s has them) or ended and counted. -/
inductive PassState (s : State) (p : Nat) (u : State) : Prop where
  | running (run : ScatterRun) (executing : u.executing = some (.scatter run))
      (bounds : ScatterBounds s.cfg p s.paddedSize.toNat run) (registers : SameRegisters s u)
  | ended (executing : u.executing = none) (even : u.evenPass = if p % 2 = 0 then s.evenPass + 1 else s.evenPass)
      (odd : u.oddPass = if p % 2 = 0 then s.oddPass else s.oddPass + 1)

/-- A state that pass p of s can reach: the pass in the middle or ended, with stores at its own words only. -/
structure PassReach (s : State) (p : Nat) (u : State) : Prop where
  memory : StoresAt (passTarget s p) s u
  state : PassState s p u

/-- Every move keeps the pass inside its bounds, and the sequencer's counts it. -/
theorem PassReach.dispatchMove {s u t : State} {p : Nat} {e : Executing} (h : PassReach s p u) (hhost : s.host = [])
    (he : u.executing = some e) (hmove : dispatchMove e u = .next t) : PassReach s p t := by
  obtain ⟨hmem, hstate⟩ := h
  cases hstate with
  | ended hnone => simp [hnone] at he
  | running run hexec hrun hreg =>
    obtain rfl := Option.some.inj (hexec.symm.trans he)
    obtain ⟨u', hd, hcase⟩ := dispatchMove_cases he hmove
    have hreg' := hreg.trans hd.sameRegisters
    have hmem' := hmem.trans (hd.storesAt _)
    rcases hcase with ⟨hr, _⟩ | hcomp | ⟨a, ha, hagent⟩
    · simp [hostReady_nil (hreg'.host.trans hhost)] at hr
    · have hpass := hrun.pass
      cases completeMove_next hcomp with
      | scatterEven _ even =>
        refine ⟨hmem'.trans (.of_memOf_eq _ fun sp => by cases sp <;> rfl), .ended rfl ?_ ?_⟩
        · simp [← hpass, even, hreg'.evenPass]
        · simp [← hpass, even, hreg'.oddPass]
      | scatterOdd _ odd =>
        refine ⟨hmem'.trans (.of_memOf_eq _ fun sp => by cases sp <;> rfl), .ended rfl ?_ ?_⟩
        · simp [← hpass, odd, hreg'.evenPass]
        · simp [← hpass, odd, hreg'.oddPass]
    · obtain ⟨w, g, hg, hstep⟩ := scatterAgent_step ha hagent
      obtain ⟨g', older, ht, hgroup⟩ := hstep.dispatch
      refine ⟨hmem'.trans (hstep.memory.mono fun _ _ hi => scatterTarget_passTarget hrun hg hi.2), ?_⟩
      exact .running _ ht (hrun.setGroup hg hgroup) (hreg'.trans hstep.registers)

/-- A pass inside its bounds always has a move. -/
theorem PassReach.dispatchMove_total {s u : State} {p : Nat} {e : Executing} (h : PassReach s p u) (hp : p < 4)
    (hsize : s.paddedSize.toNat ≤ s.cfg.cap) (hhost : s.host = []) (he : u.executing = some e) :
    ∃ t, Machine.dispatchMove e u = .next t := by
  obtain ⟨_, hstate⟩ := h
  cases hstate with
  | ended hnone => simp [hnone] at he
  | running run hexec hrun hreg =>
    obtain rfl := Option.some.inj (hexec.symm.trans he)
    refine Machine.dispatchMove_total he fun a ha u' hd => ?_
    have hreg' := hreg.trans hd.sameRegisters
    rcases mem_enabledAgents he ha with ⟨_, hr⟩ | ⟨rfl, _⟩ | ha
    · simp [hostReady_nil (hreg.host.trans hhost)] at hr
    · exact ⟨_, rfl⟩
    · exact scatterAgent_total (hreg'.cfg ▸ hrun) hp (hreg'.cfg ▸ hsize) ha

/-- A scatter of legal size ends, its pass counted, with stores at its own words only. -/
theorem scatter_ends {s : State} {p : Nat} (hp : p < 4) (hsize : s.paddedSize.toNat ≤ s.cfg.cap) (hhost : s.host = []) :
    ∃ t, runToEnd (startScatter p s) = .next t ∧ t.executing = none ∧ PassReach s p t := by
  have hstart : PassReach s p (startScatter p s) :=
    ⟨.of_memOf_eq _ fun sp => by cases sp <;> rfl,
      .running _ rfl (startScatter_bounds p s) ⟨⟨rfl, rfl, rfl, rfl, rfl, rfl⟩, rfl, rfl, rfl, rfl⟩⟩
  obtain ⟨t, hrun, ht⟩ := runMoves_total (P := PassReach s p)
    (fun u e hu he => by
      obtain ⟨t, hmove⟩ := hu.dispatchMove_total hp hsize hhost he
      exact ⟨t, hmove, hu.dispatchMove hhost he hmove⟩)
    (remainingMoves (startScatter p s)) hstart
  exact ⟨t, hrun, runToEnd_ends hrun, ht⟩

/-- The frame of a pass: the destination changes below PADDED_SIZE, HIST in the partition words. -/
theorem PassReach.frame {s t : State} {p : Nat} (h : PassReach s p t) (hmem : s.memOk = true) :
    sameOutside s t (destKeys p) 0 s.paddedSize.toNat ∧ sameOutside s t (destPay p) 0 s.paddedSize.toNat
      ∧ sameOutside s t .hist 1024 (sortHistWords s.cfg s.paddedSize.toNat) := by
  have hwf : ∀ sp, Memory.wf (memOf s sp) = true := fun sp => ((memOk_iff s).1 hmem sp).1
  obtain ⟨hkeys, hpays⟩ := dest_ne_hist p
  refine ⟨h.memory.sameOutside (hwf _) ?_, h.memory.sameOutside (hwf _) ?_, h.memory.sameOutside (hwf _) ?_⟩
  · rintro i (⟨hsp, _⟩ | ⟨_, hi⟩)
    · exact absurd hsp hkeys
    · exact ⟨Nat.zero_le i, hi⟩
  · rintro i (⟨hsp, _⟩ | ⟨_, hi⟩)
    · exact absurd hsp hpays
    · exact ⟨Nat.zero_le i, hi⟩
  · rintro i (⟨_, hi⟩ | ⟨hsp | hsp, _⟩)
    · exact hi
    · exact absurd hsp.symm hkeys
    · exact absurd hsp.symm hpays

theorem PassReach.counted {s t : State} {p : Nat} (h : PassReach s p t) (ht : t.executing = none) :
    t.evenPass = (if p % 2 = 0 then s.evenPass + 1 else s.evenPass)
      ∧ t.oddPass = (if p % 2 = 0 then s.oddPass else s.oddPass + 1) := by
  obtain ⟨_, hstate⟩ := h
  cases hstate with
  | ended _ heven hodd => exact ⟨heven, hodd⟩
  | running run hexec => simp [ht] at hexec

theorem sizesLegal_le_cap {s : State} (h : sizesLegal s = true) : s.paddedSize.toNat ≤ s.cfg.cap := by
  simp only [sizesLegal, Bool.and_eq_true, decide_eq_true_eq] at h
  obtain ⟨⟨⟨_, hcap⟩, _⟩, _⟩ := h
  exact hcap

/-- An accepted scatter's word runs its pass, and the invariant bounds which pass it is. -/
theorem exec_acceptedScatter {s : State} {i : Instr} {p : Nat}
    (h : (i = .scatterEven ∧ scatterEvenAccepted s = true ∧ p = 2 * s.evenPass.toNat)
      ∨ (i = .scatterOdd ∧ scatterOddAccepted s = true ∧ p = 2 * s.oddPass.toNat + 1))
    (hidle : s.executing = none) (hinv : s.inv = true) (hlegal : sizesLegal s = true) :
    exec i s = runToEnd (startScatter p s) ∧ p < 4 ∧ (p % 2 = 0 ↔ i = .scatterEven) ∧ (p % 2 ≠ 0 ↔ i = .scatterOdd) := by
  obtain ⟨_, _, hregs, _⟩ := (inv_iff s).1 hinv
  rw [registersFit_idle hidle] at hregs
  rcases h with ⟨rfl, hacc, rfl⟩ | ⟨rfl, hacc, rfl⟩
  · have hexec : exec .scatterEven s = runToEnd (startScatter (2 * s.evenPass.toNat) s) := by
      simp [exec, execScatterEven, runCommand, hacc, hlegal, evenPassIndex]
    simp only [scatterEvenAccepted, Bool.and_eq_true, decide_eq_true_eq] at hacc
    exact ⟨hexec, by omega, by simp, by simp⟩
  · have hexec : exec .scatterOdd s = runToEnd (startScatter (2 * s.oddPass.toNat + 1) s) := by
      simp [exec, execScatterOdd, runCommand, hacc, hlegal, oddPassIndex]
    simp only [scatterOddAccepted, Bool.and_eq_true, beq_iff_eq] at hacc
    rw [hacc.1, countersFit_scanned] at hregs
    exact ⟨hexec, by omega, by simp, by simp⟩

/-- Settles O54: a pass inside its bounds always has a move, every move keeps it there, and its moves run out. -/
theorem acceptedScatterEndsInItsBounds : Obligations.AcceptedScatterEndsInItsBounds := by
  intro s i p haccepted hhost hidle hinv hlegal
  obtain ⟨hexec, hp, heven, hodd⟩ := exec_acceptedScatter haccepted hidle hinv hlegal
  obtain ⟨t, hrun, ht, hreach⟩ := scatter_ends hp (sizesLegal_le_cap hlegal) hhost
  obtain ⟨hevenPass, hoddPass⟩ := hreach.counted ht
  obtain ⟨hmem, _, _, _⟩ := (inv_iff s).1 hinv
  refine ⟨t, hexec.trans hrun, ht, ?_, ?_, hreach.frame hmem⟩
  · rw [hevenPass]
    simp only [heven]
  · rw [hoddPass]
    simp only [← hodd, ite_not]

end Sys2Proof.Machine

namespace Sys2Proof.Machine

/-! # Which agents can move -/

theorem mem_lanesWhere_iff {f : Lane → Bool} {lanes : List Lane} {d : Nat} :
    d ∈ lanesWhere f lanes ↔ ∃ l, lanes[d]? = some l ∧ f l = true := by
  refine ⟨mem_lanesWhere, ?_⟩
  rintro ⟨l, hl, hf⟩
  exact List.mem_map.2 ⟨(l, d), List.mem_filter.2 ⟨List.mem_zipIdx_iff_getElem?.2 hl, hf⟩, rfl⟩

theorem lanesWhere_eq_nil_iff {f : Lane → Bool} {lanes : List Lane} :
    lanesWhere f lanes = [] ↔ ∀ l ∈ lanes, f l = false := by
  simp only [List.eq_nil_iff_forall_not_mem, mem_lanesWhere_iff, List.mem_iff_getElem? (l := lanes)]
  constructor
  · rintro h l ⟨d, hl⟩
    exact Bool.eq_false_iff.2 fun hf => h d ⟨l, hl, hf⟩
  · rintro h d ⟨l, hl, hf⟩
    simp [h l ⟨d, hl⟩] at hf

theorem Lane.publishing_iff (l : Lane) : l.publishing = true ↔ l.lstate = .waiting ∨ l.lstate = .based := by
  unfold Lane.publishing
  cases l.lstate <;> simp

theorem Lane.polling_iff (l : Lane) : l.polling = true ↔ l.lstate = .walking := by
  unfold Lane.polling
  cases l.lstate <;> simp

/-- The agents of workgroup w when ds are its lanes that can move: these lanes, or the workgroup at its barrier. -/
def lanesOrGroup (w : Nat) (ds : List Nat) : List Agent := if ds = [] then [.group w] else ds.map (.lane w)

theorem lane_mem_lanesOrGroup {w v d : Nat} {ds : List Nat} :
    Agent.lane v d ∈ lanesOrGroup w ds ↔ v = w ∧ d ∈ ds := by
  unfold lanesOrGroup
  split
  · next hnil => simp [hnil]
  · simp only [List.mem_map, Agent.lane.injEq]
    constructor
    · rintro ⟨e, he, rfl, rfl⟩
      exact ⟨rfl, he⟩
    · rintro ⟨rfl, hd⟩
      exact ⟨d, hd, rfl, rfl⟩

theorem group_mem_lanesOrGroup {w v : Nat} {ds : List Nat} :
    Agent.group v ∈ lanesOrGroup w ds ↔ v = w ∧ ds = [] := by
  unfold lanesOrGroup
  split <;> simp [*]

theorem lanesOrGroup_ne_nil (w : Nat) (ds : List Nat) : lanesOrGroup w ds ≠ [] := by
  unfold lanesOrGroup
  split <;> simp [*]

theorem scatterGroupAgents_publish {w : Nat} {g : ScatterGroup} (h : g.phase = .publish) :
    scatterGroupAgents w g = lanesOrGroup w (lanesWhere Lane.publishing g.lanes) := by
  simp only [scatterGroupAgents, h]
  cases lanesWhere Lane.publishing g.lanes <;> rfl

theorem scatterGroupAgents_lookback {w : Nat} {g : ScatterGroup} (h : g.phase = .lookback) :
    scatterGroupAgents w g = lanesOrGroup w (lanesWhere Lane.polling g.lanes) := by
  simp only [scatterGroupAgents, h]
  cases lanesWhere Lane.polling g.lanes <;> rfl

/-- A lane moves by itself exactly while it has still to publish or is walking (43_scatter.md R182). -/
theorem lane_mem_scatterGroupAgents {w v d : Nat} {g : ScatterGroup} :
    Agent.lane v d ∈ scatterGroupAgents w g ↔ v = w ∧ ∃ l, g.lanes[d]? = some l ∧ l.active g.phase := by
  cases hph : g.phase with
  | publish => simp [scatterGroupAgents_publish hph, lane_mem_lanesOrGroup, mem_lanesWhere_iff, Lane.active]
  | lookback => simp [scatterGroupAgents_lookback hph, lane_mem_lanesOrGroup, mem_lanesWhere_iff, Lane.active]
  | _ => simp [scatterGroupAgents, hph, Lane.active]

/-- The workgroup has a move as a whole: LOAD, WRITE, or a barrier that every lane has reached (R172, R188). -/
def ScatterGroup.ready (g : ScatterGroup) : Prop :=
  g.phase = .load ∨ g.phase = .write ∨ (g.phase = .publish ∧ ∀ l ∈ g.lanes, l.publishing = false)
    ∨ (g.phase = .lookback ∧ ∀ l ∈ g.lanes, l.polling = false)

theorem group_mem_scatterGroupAgents {w v : Nat} {g : ScatterGroup} :
    Agent.group v ∈ scatterGroupAgents w g ↔ v = w ∧ g.ready := by
  cases hph : g.phase with
  | publish =>
    simp [scatterGroupAgents_publish hph, group_mem_lanesOrGroup, lanesWhere_eq_nil_iff, ScatterGroup.ready, hph]
  | lookback =>
    simp [scatterGroupAgents_lookback hph, group_mem_lanesOrGroup, lanesWhere_eq_nil_iff, ScatterGroup.ready, hph]
  | _ => simp [scatterGroupAgents, hph, ScatterGroup.ready]

/-- Nobody of a workgroup can move exactly once it is terminal. -/
theorem scatterGroupAgents_eq_nil {w : Nat} {g : ScatterGroup} :
    scatterGroupAgents w g = [] ↔ g.phase = .done ∨ g.phase = .failed := by
  cases hph : g.phase with
  | publish => simp [scatterGroupAgents_publish hph, lanesOrGroup_ne_nil]
  | lookback => simp [scatterGroupAgents_lookback hph, lanesOrGroup_ne_nil]
  | _ => simp [scatterGroupAgents, hph]

/-- The agents of a scatter are those of its workgroups. -/
theorem mem_dispatchAgents_scatter_iff {run : ScatterRun} {a : Agent} :
    a ∈ dispatchAgents (.scatter run) ↔ ∃ w g, run.groups[w]? = some g ∧ a ∈ scatterGroupAgents w g := by
  simp only [dispatchAgents, List.mem_flatMap, Prod.exists, List.mem_zipIdx_iff_getElem?]
  exact exists_comm

theorem dispatchAgents_scatter_eq_nil {run : ScatterRun} :
    dispatchAgents (.scatter run) = [] ↔ ∀ g ∈ run.groups, g.phase = .done ∨ g.phase = .failed := by
  simp only [dispatchAgents, List.flatMap_eq_nil_iff, scatterGroupAgents_eq_nil, Prod.forall,
    List.mem_zipIdx_iff_getElem?, List.mem_iff_getElem? (l := run.groups)]
  exact ⟨fun h g ⟨w, hw⟩ => h g w hw, fun h g w hw => h g ⟨w, hw⟩⟩

/-- The workgroups that satisfy f, as HISTOGRAM and PREFIX list those not DONE. -/
def groupsWhere {α : Type} (f : α → Bool) (groups : List α) : List Agent :=
  (groups.zipIdx.filter fun x => f x.1).map fun x => .group x.2

theorem mem_groupsWhere {α : Type} {f : α → Bool} {groups : List α} {a : Agent} :
    a ∈ groupsWhere f groups ↔ ∃ w g, a = .group w ∧ groups[w]? = some g ∧ f g = true := by
  simp only [groupsWhere, List.mem_map, List.mem_filter, Prod.exists, List.mem_zipIdx_iff_getElem?]
  constructor
  · rintro ⟨g, w, ⟨hg, hf⟩, rfl⟩
    exact ⟨w, g, rfl, hg, hf⟩
  · rintro ⟨w, g, rfl, hg, hf⟩
    exact ⟨g, w, ⟨hg, hf⟩, rfl⟩

theorem groupsWhere_eq_nil_iff {α : Type} {f : α → Bool} {groups : List α} :
    groupsWhere f groups = [] ↔ ∀ g ∈ groups, f g = false := by
  simp [groupsWhere, List.filter_eq_nil_iff, List.mem_zipIdx_iff_getElem?, List.mem_iff_getElem? (l := groups)]

theorem dispatchAgents_histogram (run : HistRun) :
    dispatchAgents (.histogram run) = groupsWhere (fun g => g.phase != .done) run.groups := rfl

theorem dispatchAgents_scan (groups : List ScanGroup) :
    dispatchAgents (.scan groups) = groupsWhere (fun g => g.phase != .done) groups := rfl

theorem mem_dispatchAgents_histogram_iff {run : HistRun} {a : Agent} :
    a ∈ dispatchAgents (.histogram run) ↔ ∃ w g, a = .group w ∧ run.groups[w]? = some g ∧ g.phase ≠ .done := by
  simp [dispatchAgents_histogram, mem_groupsWhere]

theorem dispatchAgents_histogram_eq_nil {run : HistRun} :
    dispatchAgents (.histogram run) = [] ↔ ∀ g ∈ run.groups, g.phase = .done := by
  simp [dispatchAgents_histogram, groupsWhere_eq_nil_iff]

theorem mem_dispatchAgents_scan_iff {groups : List ScanGroup} {a : Agent} :
    a ∈ dispatchAgents (.scan groups) ↔ ∃ w g, a = .group w ∧ groups[w]? = some g ∧ g.phase ≠ .done := by
  simp [dispatchAgents_scan, mem_groupsWhere]

theorem dispatchAgents_scan_eq_nil {groups : List ScanGroup} :
    dispatchAgents (.scan groups) = [] ↔ ∀ g ∈ groups, g.phase = .done := by
  simp [dispatchAgents_scan, groupsWhere_eq_nil_iff]

/-- The agents of a dispatch are workgroups and lanes. -/
theorem dispatchAgents_kind {e : Executing} {a : Agent} (h : a ∈ dispatchAgents e) : a ≠ .host ∧ a ≠ .sequencer := by
  cases e with
  | zero size cleared => simp [dispatchAgents] at h
  | histogram run =>
    obtain ⟨w, g, rfl, _⟩ := mem_dispatchAgents_histogram h
    simp
  | scan groups =>
    obtain ⟨w, g, rfl, _⟩ := mem_dispatchAgents_scan h
    simp
  | scatter run =>
    obtain ⟨w, g, _, ⟨rfl, _⟩ | ⟨d, l, rfl, _⟩⟩ := mem_dispatchAgents_scatter h <;> simp

theorem engineAgents_executing {s : State} {e : Executing} (he : s.executing = some e) :
    engineAgents s = if dispatchAgents e = [] then [.sequencer] else dispatchAgents e := by
  simp only [engineAgents, he]
  cases dispatchAgents e <;> rfl

theorem host_not_mem_engineAgents (s : State) : Agent.host ∉ engineAgents s := by
  cases he : s.executing with
  | none =>
    simp only [engineAgents, he]
    split <;> simp
  | some e =>
    rw [engineAgents_executing he]
    split
    · simp
    · exact fun h => (dispatchAgents_kind h).1 rfl

theorem host_mem_enabledAgents (s : State) : Agent.host ∈ enabledAgents s ↔ hostReady s = true := by
  simp [enabledAgents, host_not_mem_engineAgents]

section Executing

variable {s : State} {e : Executing} (he : s.executing = some e)
include he

theorem sequencer_mem_enabledAgents : Agent.sequencer ∈ enabledAgents s ↔ dispatchAgents e = [] := by
  have hkind : Agent.sequencer ∉ dispatchAgents e := fun h => (dispatchAgents_kind h).2 rfl
  rw [enabledAgents, engineAgents_executing he]
  split <;> simp [*]

theorem group_mem_enabledAgents {w : Nat} : Agent.group w ∈ enabledAgents s ↔ Agent.group w ∈ dispatchAgents e := by
  rw [enabledAgents, engineAgents_executing he]
  split <;> simp [*]

theorem lane_mem_enabledAgents {w d : Nat} :
    Agent.lane w d ∈ enabledAgents s ↔ Agent.lane w d ∈ dispatchAgents e := by
  rw [enabledAgents, engineAgents_executing he]
  split <;> simp [*]

end Executing

theorem lane_mem_dispatchAgents_scatter {run : ScatterRun} {w d : Nat} :
    Agent.lane w d ∈ dispatchAgents (.scatter run)
      ↔ ∃ g l, run.groups[w]? = some g ∧ g.lanes[d]? = some l ∧ l.active g.phase := by
  simp only [mem_dispatchAgents_scatter_iff, lane_mem_scatterGroupAgents]
  constructor
  · rintro ⟨_, g, hg, rfl, l, hl, hact⟩
    exact ⟨g, l, hg, hl, hact⟩
  · rintro ⟨g, l, hg, hl, hact⟩
    exact ⟨w, g, hg, rfl, l, hl, hact⟩

theorem group_mem_dispatchAgents_scatter {run : ScatterRun} {w : Nat} :
    Agent.group w ∈ dispatchAgents (.scatter run) ↔ ∃ g, run.groups[w]? = some g ∧ g.ready := by
  simp only [mem_dispatchAgents_scatter_iff, group_mem_scatterGroupAgents]
  constructor
  · rintro ⟨_, g, hg, rfl, hready⟩
    exact ⟨g, hg, hready⟩
  · rintro ⟨g, hg, hready⟩
    exact ⟨w, g, hg, rfl, hready⟩

theorem Lane.active_iff {ph : ScatterPhase} {l : Lane} : l.active ph ↔
    (ph = .lookback ∧ l.lstate = .walking) ∨ (ph = .publish ∧ (l.lstate = .waiting ∨ l.lstate = .based)) := by
  rw [Lane.active, Lane.publishing_iff, Lane.polling_iff]
  exact or_comm

theorem ScatterGroup.ready_iff {g : ScatterGroup} : g.ready ↔ g.phase = .load ∨ g.phase = .write ∨
    (g.phase = .publish ∧ ∀ l ∈ g.lanes, l.lstate ≠ .waiting ∧ l.lstate ≠ .based) ∨
    (g.phase = .lookback ∧ ∀ l ∈ g.lanes, l.lstate ≠ .walking) := by
  simp only [ScatterGroup.ready, ← Bool.not_eq_true, Lane.publishing_iff, Lane.polling_iff, not_or]

/-- Settles O53: the agents of each kind of dispatch, the sequencer when there are none, and the host. -/
theorem agentsThatCanMove : Obligations.AgentsThatCanMove := by
  refine ⟨fun s run he => ⟨fun w d => ?_, fun w => ?_, ?_⟩, fun s run he => ⟨fun w => ?_, fun w d => ?_, ?_⟩,
    fun s groups he => ⟨fun w => ?_, fun w d => ?_, ?_⟩, host_mem_enabledAgents⟩
  · simp only [lane_mem_enabledAgents he, lane_mem_dispatchAgents_scatter, Lane.active_iff]
  · simp only [group_mem_enabledAgents he, group_mem_dispatchAgents_scatter, ScatterGroup.ready_iff]
  · rw [sequencer_mem_enabledAgents he, dispatchAgents_scatter_eq_nil]
  · simp [group_mem_enabledAgents he, mem_dispatchAgents_histogram_iff]
  · simp [lane_mem_enabledAgents he, mem_dispatchAgents_histogram_iff]
  · rw [sequencer_mem_enabledAgents he, dispatchAgents_histogram_eq_nil]
  · simp [group_mem_enabledAgents he, mem_dispatchAgents_scan_iff]
  · simp [lane_mem_enabledAgents he, mem_dispatchAgents_scan_iff]
  · rw [sequencer_mem_enabledAgents he, dispatchAgents_scan_eq_nil]

end Sys2Proof.Machine

namespace Sys2Proof.Machine

/-! # What the draws can reach -/

theorem choose_eq_getElem {α : Type} (a : α) (rest : List α) {k : Nat} (hk : k < (a :: rest).length) :
    choose a rest k = (a :: rest)[k] := by
  cases k with
  | zero => rfl
  | succ k =>
    rw [choose, Nat.mod_eq_of_lt (by simpa using hk)]
    exact List.getD_eq_getElem _ _ hk

theorem draw_pushed (s : State) (n : Nat) : draw { s with sched := n :: s.sched } = (n, s) := rfl

/-- Each of the listed things is the choice under some draws, and no other draw is used up (log 4). -/
theorem pick_reaches {α : Type} {xs : List α} {a : α} (s : State) (h : a ∈ xs) :
    ∃ ds, pick xs { s with sched := ds ++ s.sched } = some (a, s) := by
  match xs with
  | [b] =>
    obtain rfl : a = b := by simpa using h
    exact ⟨[], rfl⟩
  | b :: c :: rest =>
    obtain ⟨k, hk, rfl⟩ := List.getElem_of_mem h
    refine ⟨[k], ?_⟩
    rw [List.singleton_append, pick, draw_pushed, choose_eq_getElem b (c :: rest) hk]

/-- Settles O43: the draw that names the agent's place among those that can move. -/
theorem everyInterleavingIsAdmitted : Obligations.EveryInterleavingIsAdmitted := by
  intro s e a _ ha
  obtain ⟨ds, hpick⟩ := pick_reaches s ha
  have hsame : enabledAgents { s with sched := ds ++ s.sched } = enabledAgents s := rfl
  exact ⟨ds, by rw [dispatchMove, hsame, hpick]⟩

/-- The values of a word's coherence order, each at its place counted from the oldest (20_memory.md R71). -/
theorem mem_versions_iff {vs : List Word} {n : Nat} {v : Word} :
    (n, v) ∈ versions vs ↔ n < vs.length ∧ vs[vs.length - 1 - n]? = some v := by
  induction vs with
  | nil => simp [versions]
  | cons x older ih =>
    rw [versions, List.mem_cons, ih, Prod.mk.injEq, List.length_cons, Nat.add_sub_cancel]
    rcases Nat.lt_trichotomy n older.length with hlt | rfl | hgt
    · obtain ⟨k, hk⟩ : ∃ k, older.length - n = k + 1 := ⟨older.length - n - 1, by omega⟩
      have hidx : older.length - 1 - n = k := by omega
      simp only [hk, hidx, List.getElem?_cons_succ, hlt, Nat.lt_succ_of_lt hlt, hlt.ne]
      simp
    · simp [eq_comm]
    · omega

/-- The values that a coherent load may answer: those at a place from `seen` on. -/
theorem mem_readable_iff {cur : Word} {older : List Word} {seen n : Nat} {v : Word} :
    (n, v) ∈ (versions (cur :: older)).filter (fun x => seen ≤ x.1)
      ↔ seen ≤ n ∧ n ≤ older.length ∧ (cur :: older)[older.length - n]? = some v := by
  rw [List.mem_filter, mem_versions_iff]
  simp only [List.length_cons, Nat.add_sub_cancel, Nat.lt_succ_iff, decide_eq_true_eq]
  tauto

/-- What a coherent load answers is a readable value; where there is none, it is the newest one. -/
theorem loadCoherent_value (cur : Word) (older : List Word) (seen : Nat) (s : State) :
    (cur :: older)[older.length - (loadCoherent cur older seen s).1]? = some (loadCoherent cur older seen s).2.1 := by
  unfold loadCoherent
  split
  · next n v s' hpick =>
    obtain ⟨hmem, _⟩ := pick_some hpick
    obtain ⟨_, _, hval⟩ := mem_readable_iff.1 hmem
    exact hval
  · simp

/-- Settles O42: the load picks among the values not older than the last one read, and draws reach each of them. -/
theorem coherentLoadReadsNothingOlder : Obligations.CoherentLoadReadsNothingOlder := by
  intro cur older seen s hseen
  obtain ⟨hge, _⟩ := loadCoherent_spec (cur := cur) (s := s) hseen
  refine ⟨⟨hge, loadCoherent_value cur older seen s⟩, fun n hn hlen => ?_⟩
  have hidx : older.length - n < (cur :: older).length := by
    rw [List.length_cons]
    omega
  have hmem : (n, (cur :: older).getD (older.length - n) 0) ∈ (versions (cur :: older)).filter (fun x => seen ≤ x.1) :=
    mem_readable_iff.2 ⟨hn, hlen, by rw [List.getD_eq_getElem _ _ hidx, List.getElem?_eq_getElem hidx]⟩
  obtain ⟨ds, hpick⟩ := pick_reaches s hmem
  exact ⟨ds, s, by rw [loadCoherent, hpick], rfl⟩

end Sys2Proof.Machine

namespace Sys2Proof.Machine

/-! # Host accesses, each by what it addresses -/

/-- Writing the same word again changes nothing. -/
theorem Memory.writeWord_twice {m : Memory} (h : Memory.wf m = true) (i : Nat) (v : Word) :
    Memory.writeWord (Memory.writeWord m i v) i v = Memory.writeWord m i v := by
  have hwf := Memory.wf_writeWord h i v
  refine Memory.ext_of_wf (Memory.wf_writeWord hwf i v) hwf fun a => ?_
  simp only [Memory.readByte_writeWord hwf, Memory.readByte_writeWord h]
  split_ifs <;> rfl

theorem storeWord_twice {s : State} {sp : Space} (h : Memory.wf (memOf s sp) = true) (i : Nat) (v : Word) :
    storeWord (storeWord s sp i v) sp i v = storeWord s sp i v := by
  have hset : ∀ m n, setMem (setMem s sp m) sp n = setMem s sp n := by cases sp <;> exact fun _ _ => rfl
  simp only [storeWord, memOf_setMem_same, hset, Memory.writeWord_twice h]

theorem oneAlignedWord_word (i : Nat) : oneAlignedWord (4 * i) 4 = true := by simp [oneAlignedWord]

theorem oneAlignedWord_offset (r : Reg) : oneAlignedWord r.offset 4 = true := by cases r <;> rfl

theorem regAt_offset (r : Reg) : regAt r.offset = some r := by cases r <;> rfl

@[simp] theorem busy_storeWord (s : State) (sp : Space) (i : Nat) (v : Word) : busy (storeWord s sp i v) = busy s := by
  simp [busy]

/-- A READ of a register answers it; while BUSY only STATUS has one (30_encoding.md R106). -/
theorem hostRead_register (s : State) (r : Reg) : hostRead s .registers r.offset 4
    = if busy s && r != .status then .refused .registerReadWhileBusy else .next (answer s (readReg s r)) := by
  simp only [hostRead, oneAlignedWord_offset, regAt_offset, Bool.not_true, Bool.false_eq_true, if_false]

theorem hostRead_register_idle {s : State} (h : busy s = false) (r : Reg) :
    hostRead s .registers r.offset 4 = .next (answer s (readReg s r)) := by
  simp [hostRead_register, h]

theorem hostWrite_register (s : State) (r : Reg) (v : Word) :
    hostWrite s .registers r.offset 4 v = writeReg s r v := by
  simp only [hostWrite, oneAlignedWord_offset, regAt_offset, Bool.not_true, Bool.false_eq_true, if_false]

/-- While idle an MREAD inside its space answers the word. -/
theorem hostRead_space_idle {s : State} {sp : Space} {i : Nat} (h : busy s = false) (hi : i < spaceWords s.cfg sp) :
    hostRead s (.space sp) (4 * i) 4 = .next (answer s (loadWord s sp i)) := by
  simp [hostRead, oneAlignedWord_word, h, hi]

/-- While idle an MWRITE inside its space stores the word. -/
theorem hostWrite_space_idle {s : State} {sp : Space} {i : Nat} (h : busy s = false) (hi : i < spaceWords s.cfg sp)
    (v : Word) : hostWrite s (.space sp) (4 * i) 4 v = .next (storeWord s sp i v) := by
  simp [hostWrite, oneAlignedWord_word, h, hi]

/-- A read changes nothing but the host's answers (20_memory.md R65). -/
theorem hostRead_answers {s t : State} {tgt : Target} {off size : Nat} (h : hostRead s tgt off size = .next t) :
    ∃ v, t = answer s v := by
  unfold hostRead at h
  split at h
  · simp at h
  · cases tgt with
    | registers =>
      simp only at h
      split at h
      · simp at h
      · split at h
        · simp at h
        · exact ⟨_, (Host.Outcome.next.inj h).symm⟩
    | space sp =>
      simp only at h
      split at h
      · simp at h
      · split at h
        · simp at h
        · exact ⟨_, (Host.Outcome.next.inj h).symm⟩

/-- Settles O14: reads answer the register or word they address; writes of CMD queue, writes of a size also clear PHASE,
and a buffer write is the store of one word, which a second one leaves as it is. -/
theorem accessSideEffects : Obligations.AccessSideEffects := by
  refine ⟨fun s t tgt off size => hostRead_answers, fun s hidle => ?_, fun s => ?_,
    fun s sp i hidle hi => hostRead_space_idle hidle hi, fun s v hroom => ?_, fun s v hidle => ?_,
    fun s sp i v hidle hi hwf => ?_⟩
  · have hread := hostRead_register_idle hidle
    exact ⟨hread .numKeys, hread .paddedSize, hread .evenPass, hread .oddPass, hread .sortFailed, hread .cmd⟩
  · exact (hostRead_register s .status).trans (by simp [readReg])
  · exact (hostWrite_register s .cmd v).trans (by simp [writeReg, hroom])
  · exact ⟨(hostWrite_register s .numKeys v).trans (by simp [writeReg, hidle]),
      (hostWrite_register s .paddedSize v).trans (by simp [writeReg, hidle])⟩
  · refine ⟨_, hostWrite_space_idle hidle hi v, ?_, ?_, ?_, fun a ha => ?_⟩
    · rw [storeWord, memOf_setMem_same]
    · simp [loadWord_storeWord hwf]
    · rw [hostWrite_space_idle (by simpa using hidle) (by simpa using hi), storeWord_twice hwf]
    · rw [storeWord, memOf_setMem_same]
      exact Memory.readByte_writeWord_other hwf v ha

/-- Settles O15: the write stores its word, and the read loads from the state with that word stored. -/
theorem hostReadsBackWhatItWrote : Obligations.HostReadsBackWhatItWrote := by
  intro s sp sp' i j v hidle hmem hi hj
  refine ⟨_, hostWrite_space_idle hidle hi v, ?_⟩
  rw [hostRead_space_idle (by simpa using hidle) (by simpa using hj),
    loadWord_storeWord ((memOk_iff s).1 hmem sp).1 i v sp' j]

end Sys2Proof.Machine

namespace Sys2Proof.Machine

/-! # The shape of a running scatter -/

/-- Workgroup w of a running scatter of pass p has its shape: groupFits and its part of wordsFit, lane by lane. -/
structure GroupShape (s : State) (p w : Nat) (g : ScatterGroup) : Prop where
  lanes : g.lanes.length = 256
  excl : g.excl.length = 256
  fits : ∀ (d : Nat) (l : Lane), g.lanes[d]? = some l → laneFits s.cfg.spinBudget w g.phase l = true
  words : ∀ (d : Nat) (l : Lane), g.lanes[d]? = some l → laneWordFits s p w d g l = true
  lost : g.scatterFailed = g.lanes.any Lane.lost
  failed : g.phase = .failed → g.scatterFailed = true

/-- Every workgroup of a running scatter has its shape. -/
def ScatterShape (s : State) (run : ScatterRun) : Prop :=
  ∀ (w : Nat) (g : ScatterGroup), run.groups[w]? = some g → GroupShape s run.pass w g

theorem all_iff_getElem? {α : Type} {f : α → Bool} {xs : List α} :
    xs.all f = true ↔ ∀ (i : Nat) (x : α), xs[i]? = some x → f x = true := by
  simp only [List.all_eq_true, List.mem_iff_getElem?]
  exact ⟨fun h i x hx => h x ⟨i, hx⟩, fun h x ⟨i, hx⟩ => h i x hx⟩

theorem all_zipIdx_iff {α : Type} {f : α × Nat → Bool} {xs : List α} :
    xs.zipIdx.all f = true ↔ ∀ (i : Nat) (x : α), xs[i]? = some x → f (x, i) = true := by
  simp only [List.all_eq_true, Prod.forall, List.mem_zipIdx_iff_getElem?]
  exact forall_comm

theorem groupFits_iff {budget w : Nat} {g : ScatterGroup} : groupFits budget w g = true ↔
    g.lanes.length = 256 ∧ (∀ (d : Nat) (l : Lane), g.lanes[d]? = some l → laneFits budget w g.phase l = true)
      ∧ g.scatterFailed = g.lanes.any Lane.lost ∧ (g.phase = .failed → g.scatterFailed = true) := by
  simp only [groupFits, Bool.and_eq_true, beq_iff_eq, all_iff_getElem?, and_assoc, Bool.or_eq_true, bne_iff_ne,
    Decidable.imp_iff_not_or]

theorem runFits_iff {budget : Nat} {run : ScatterRun} : runFits budget run = true ↔
    ∀ (w : Nat) (g : ScatterGroup), run.groups[w]? = some g → groupFits budget w g = true := all_zipIdx_iff

theorem wordsFit_iff {s : State} {run : ScatterRun} : wordsFit s run = true ↔
    ∀ (w : Nat) (g : ScatterGroup), run.groups[w]? = some g → g.excl.length = 256 ∧
      ∀ (d : Nat) (l : Lane), g.lanes[d]? = some l → laneWordFits s run.pass w d g l = true := by
  simp only [wordsFit, all_zipIdx_iff, Bool.and_eq_true, beq_iff_eq]

/-- The shape is what the model's two predicates say together. -/
theorem scatterShape_iff {s : State} {run : ScatterRun} :
    ScatterShape s run ↔ runFits s.cfg.spinBudget run = true ∧ wordsFit s run = true := by
  rw [runFits_iff, wordsFit_iff]
  constructor
  · intro h
    refine ⟨fun w g hg => ?_, fun w g hg => ⟨(h w g hg).excl, (h w g hg).words⟩⟩
    obtain ⟨hlanes, _, hfits, _, hlost, hfailed⟩ := h w g hg
    exact groupFits_iff.2 ⟨hlanes, hfits, hlost, hfailed⟩
  · rintro ⟨hfits, hwords⟩ w g hg
    obtain ⟨hlanes, hfits, hlost, hfailed⟩ := groupFits_iff.1 (hfits w g hg)
    obtain ⟨hexcl, hwords⟩ := hwords w g hg
    exact ⟨hlanes, hexcl, hfits, hwords, hlost, hfailed⟩

/-! ## What the shape of a workgroup rests on -/

theorem laneWordFits_congr {s t : State} {p w d : Nat} {g g' : ScatterGroup} (l : Lane)
    (hword : loadWord t .hist (pidx w d) = loadWord s .hist (pidx w d)) (hcounts : g'.counts = g.counts)
    (hexcl : arrayAt g'.excl d = arrayAt g.excl d) : laneWordFits t p w d g' l = laneWordFits s p w d g l := by
  simp only [laneWordFits, hword, hcounts, hexcl]

theorem GroupShape.lane_lt {s : State} {p w d : Nat} {g : ScatterGroup} {l : Lane} (h : GroupShape s p w g)
    (hl : g.lanes[d]? = some l) : d < 256 := h.lanes ▸ (List.getElem?_eq_some_iff.1 hl).1

/-- A workgroup keeps its shape while its partition words and the budget stay. -/
theorem GroupShape.of_words {s t : State} {p w : Nat} {g : ScatterGroup} (h : GroupShape s p w g)
    (hcfg : t.cfg = s.cfg) (hwords : ∀ d < 256, loadWord t .hist (pidx w d) = loadWord s .hist (pidx w d)) :
    GroupShape t p w g where
  lanes := h.lanes
  excl := h.excl
  fits := hcfg ▸ h.fits
  words := fun d l hl => (laneWordFits_congr l (hwords d (h.lane_lt hl)) rfl rfl).trans (h.words d l hl)
  lost := h.lost
  failed := h.failed

/-- The partition words of s and t agree but for the one of lane (w, d). -/
def OtherWordsKept (w d : Nat) (s t : State) : Prop :=
  ∀ v e, e < 256 → ¬ (v = w ∧ e = d) → loadWord t .hist (pidx v e) = loadWord s .hist (pidx v e)

theorem loadWord_hist_congr {s t : State} (h : t.hist = s.hist) (i : Nat) :
    loadWord t .hist i = loadWord s .hist i := by
  simp only [loadWord, memOf_hist, h]

theorem otherWordsKept_of_hist {s t : State} (h : t.hist = s.hist) (w d : Nat) : OtherWordsKept w d s t :=
  fun v e _ _ => loadWord_hist_congr h (pidx v e)

theorem loadWord_publishWord {s : State} (h : Memory.wf s.hist = true) (w d i : Nat) (v : Word) :
    loadWord (publishWord s w d v) .hist i = if i = pidx w d then v else loadWord s .hist i := by
  simp [publishWord, loadWord_storeWord (sp := .hist) h]

theorem otherWordsKept_publishWord {s : State} {w d : Nat} (h : Memory.wf s.hist = true) (hd : d < 256) (x : Word) :
    OtherWordsKept w d s (publishWord s w d x) := by
  intro v e he hne
  rw [loadWord_publishWord h, if_neg]
  simp only [pidx]
  omega

theorem ScatterShape.of_hist {s t : State} {run : ScatterRun} (h : ScatterShape s run) (hcfg : t.cfg = s.cfg)
    (hhist : t.hist = s.hist) : ScatterShape t run :=
  fun w g hg => (h w g hg).of_words hcfg fun _ _ => loadWord_hist_congr hhist _

/-- A workgroup replaced by one with its shape, the words of the others kept. -/
theorem ScatterShape.setGroup {s t : State} {run : ScatterRun} {w d : Nat} {g' : ScatterGroup} {older : List Word}
    (h : ScatterShape s run) (hcfg : t.cfg = s.cfg) (hwords : OtherWordsKept w d s t)
    (hg' : GroupShape t run.pass w g') : ScatterShape t { run.setGroup w g' with failedOlder := older } := by
  intro v g hv
  simp only [ScatterRun.setGroup, List.getElem?_set] at hv
  split at hv
  · next heq =>
    subst heq
    obtain ⟨_, rfl⟩ : _ ∧ g' = g := by simpa using hv
    exact hg'
  · next hne => exact (h v g hv).of_words hcfg fun e he => hwords v e he (by omega)

/-- The scatter that t executes, if it executes one, has its shape. -/
def Shaped (t : State) : Prop := ∀ run, t.executing = some (.scatter run) → ScatterShape t run

theorem shaped_setScatter {t : State} {run : ScatterRun} (h : ScatterShape t run) : Shaped (setScatter t run) := by
  intro run' he
  obtain rfl : run = run' := by simpa using he
  exact h.of_hist rfl rfl

theorem DrawsFrom.hist {s t : State} (h : DrawsFrom s t) : t.hist = s.hist := h.memOf .hist

theorem ScatterShape.after_draws {s t : State} {run : ScatterRun} (h : ScatterShape s run) (hd : DrawsFrom s t) :
    ScatterShape t run := h.of_hist hd.sameRegisters.cfg hd.hist

/-! ## Moves of a lane -/

theorem arrayAt_set_same {xs : List Word} {i : Nat} (h : i < xs.length) (v : Word) : arrayAt (xs.set i v) i = v := by
  simp [arrayAt, h]

theorem arrayAt_set_other (xs : List Word) {i j : Nat} (h : j ≠ i) (v : Word) :
    arrayAt (xs.set i v) j = arrayAt xs j := by
  simp [arrayAt, List.getElem?_set_ne h.symm]

theorem any_set {α : Type} {f : α → Bool} {xs : List α} {i : Nat} {a b : α} (h : xs[i]? = some a)
    (ha : f a = false) : (xs.set i b).any f = (xs.any f || f b) := by
  induction xs generalizing i with
  | nil => simp at h
  | cons x xs ih =>
    cases i with
    | zero =>
      obtain rfl : x = a := by simpa using h
      simp [ha, Bool.or_comm]
    | succ i => simp [ih (by simpa using h), Bool.or_assoc]

/-- How a move of lane d changes its workgroup: the lane becomes l', its entry of shared.excl may change, and
scatter_failed is set where l' is lost. -/
structure LaneStep (d : Nat) (l' : Lane) (g g' : ScatterGroup) : Prop where
  lanes : g'.lanes = g.lanes.set d l'
  phase : g'.phase = g.phase
  counts : g'.counts = g.counts
  length : g'.excl.length = g.excl.length
  excl : ∀ e, e ≠ d → arrayAt g'.excl e = arrayAt g.excl e
  flag : g'.scatterFailed = (g.scatterFailed || l'.lost)

section LaneStep

variable {d : Nat} {l' : Lane} (g : ScatterGroup)

theorem laneStep_setLane (h : l'.lost = false) : LaneStep d l' g (g.setLane d l') :=
  ⟨rfl, rfl, rfl, rfl, fun _ _ => rfl, by simp [ScatterGroup.setLane, h]⟩

theorem laneStep_setExcl (h : l'.lost = false) (v : Word) :
    LaneStep d l' g { g.setLane d l' with excl := g.excl.set d v } :=
  ⟨rfl, rfl, rfl, List.length_set, fun _ he => arrayAt_set_other g.excl he v, by simp [ScatterGroup.setLane, h]⟩

theorem laneStep_lost (h : l'.lost = true) : LaneStep d l' g { g.setLane d l' with scatterFailed := true } :=
  ⟨rfl, rfl, rfl, rfl, fun _ _ => rfl, by simp [h]⟩

end LaneStep

/-- A workgroup whose lane d moved keeps its shape when the lane's new state and its word fit. -/
theorem GroupShape.laneStep {s t : State} {p w d : Nat} {g g' : ScatterGroup} {l l' : Lane} (h : GroupShape s p w g)
    (hl : g.lanes[d]? = some l) (hlive : l.lost = false) (hstep : LaneStep d l' g g') (hcfg : t.cfg = s.cfg)
    (hwords : OtherWordsKept w d s t) (hfits : laneFits s.cfg.spinBudget w g.phase l' = true)
    (hword : laneWordFits t p w d g' l' = true) : GroupShape t p w g' := by
  have hlane : ∀ {e : Nat} {m : Lane}, g'.lanes[e]? = some m → (e = d ∧ m = l') ∨ (e ≠ d ∧ g.lanes[e]? = some m) := by
    intro e m hm
    rw [hstep.lanes, List.getElem?_set] at hm
    split at hm
    · next heq =>
      obtain ⟨_, rfl⟩ : _ ∧ l' = m := by simpa using hm
      exact .inl ⟨heq.symm, rfl⟩
    · next hne => exact .inr ⟨Ne.symm hne, hm⟩
  refine ⟨?_, hstep.length.trans h.excl, fun e m hm => ?_, fun e m hm => ?_, ?_, fun hph => ?_⟩
  · rw [hstep.lanes, List.length_set]
    exact h.lanes
  · rw [hstep.phase, hcfg]
    rcases hlane hm with ⟨_, rfl⟩ | ⟨_, hm⟩
    · exact hfits
    · exact h.fits e m hm
  · rcases hlane hm with ⟨rfl, rfl⟩ | ⟨hne, hm⟩
    · exact hword
    · rw [laneWordFits_congr m (hwords w e (h.lane_lt hm) (by omega)) hstep.counts (hstep.excl e hne)]
      exact h.words e m hm
  · rw [hstep.flag, hstep.lanes, any_set hl hlive, h.lost]
  · rw [hstep.flag, h.failed (hstep.phase.symm.trans hph), Bool.true_or]

theorem Lane.lost_of_active {ph : ScatterPhase} {l : Lane} (h : l.active ph) : l.lost = false := by
  rcases Lane.active_iff.1 h with ⟨_, hls⟩ | ⟨_, hls | hls⟩ <;> simp [Lane.lost, hls]

/-- A lane whose only store so far is its Aggregate: PUBLISH of w > 0 behind it, and not resolved. -/
theorem laneWordFits_aggregate {s : State} {p w d : Nat} {g : ScatterGroup} {l : Lane} (hwait : l.lstate ≠ .waiting)
    (hbased : l.lstate ≠ .based) (hres : l.lstate ≠ .resolved) : laneWordFits s p w d g l = true ↔
      w ≠ 0 ∧ loadWord s .hist (pidx w d) = psw (aggTag p) (arrayAt g.counts d) ∧ l.older.length = 1 := by
  cases hls : l.lstate <;> simp_all [laneWordFits, and_assoc]

/-- A lane that moves on: the workgroup and the scatter keep their shape. -/
theorem ScatterShape.laneStep {s t : State} {run : ScatterRun} {w d : Nat} {g g' : ScatterGroup} {l l' : Lane}
    {older : List Word} (h : ScatterShape s run) (hg : run.groups[w]? = some g) (hl : g.lanes[d]? = some l)
    (hlive : l.lost = false) (hstep : LaneStep d l' g g') (hcfg : t.cfg = s.cfg) (hwords : OtherWordsKept w d s t)
    (hfits : laneFits s.cfg.spinBudget w g.phase l' = true) (hword : laneWordFits t run.pass w d g' l' = true) :
    Shaped (setScatter t { run.setGroup w g' with failedOlder := older }) :=
  shaped_setScatter (h.setGroup hcfg hwords ((h w g hg).laneStep hl hlive hstep hcfg hwords hfits hword))

section Publish

variable {s t : State} {run : ScatterRun} {w d : Nat} {g : ScatterGroup} {l : Lane}
  (hshape : ScatterShape s run) (hwf : Memory.wf s.hist = true) (hg : run.groups[w]? = some g)
  (hl : g.lanes[d]? = some l) (hlive : l.lost = false) (hph : g.phase = .publish)
include hshape hg hl hlive hph

/-- PUBLISH of workgroup 0, first half: the lane has stored nothing (43_scatter.md R179). -/
theorem readBase_shaped (hls : l.lstate = .waiting) (hw : w = 0)
    (h : readBase run w d g l s = .next t) : Shaped t := by
  have hfits := (hshape w g hg).fits d l hl
  obtain ⟨_, h⟩ := guardSpace_next.1 h
  obtain rfl := Host.Outcome.next.inj h
  have holder : l.older = [] := by simpa [laneFits, hph, hls] using hfits
  refine hshape.laneStep hg hl hlive (laneStep_setExcl g rfl _) rfl (otherWordsKept_of_hist rfl w d) ?_ ?_
  · simp [laneFits, hph, hw, holder]
  · simp [laneWordFits, holder]

include hwf

/-- PUBLISH of workgroup 0, second half: the base that the lane read, plus its count, is its Prefix (R179). -/
theorem publishFirst_shaped (hls : l.lstate = .based)
    (h : publishFirst run w d g l s = .next t) : Shaped t := by
  have hgroup := hshape w g hg
  have hfits := hgroup.fits d l hl
  obtain ⟨_, h⟩ := guardSpace_next.1 h
  obtain rfl := Host.Outcome.next.inj h
  obtain ⟨hw, holder⟩ : w = 0 ∧ l.older = [] := by simpa [laneFits, hph, hls] using hfits
  refine hshape.laneStep hg hl hlive (laneStep_setLane g rfl) (by simp [publishWord])
    (otherWordsKept_publishWord hwf (hgroup.lane_lt hl) _) ?_ ?_
  · simp [laneFits, hph, hw, holder, Lane.stored]
  · simp [laneWordFits, loadWord_publishWord hwf, hw, holder, Lane.stored, ScatterGroup.setLane]

/-- PUBLISH of a workgroup above 0: the tile's count is the lane's Aggregate (R178). -/
theorem publishAggregate_shaped (hls : l.lstate = .waiting) (hw : w ≠ 0)
    (h : publishAggregate run w d g l s = .next t) : Shaped t := by
  have hgroup := hshape w g hg
  have hfits := hgroup.fits d l hl
  obtain ⟨_, h⟩ := guardSpace_next.1 h
  obtain rfl := Host.Outcome.next.inj h
  have holder : l.older = [] := by simpa [laneFits, hph, hls] using hfits
  refine hshape.laneStep hg hl hlive (laneStep_setLane g rfl) (by simp [publishWord])
    (otherWordsKept_publishWord hwf (hgroup.lane_lt hl) _) ?_ ?_
  · simp [laneFits, hph, hw, holder, Lane.stored]
  · simp [laneWordFits, loadWord_publishWord hwf, hw, holder, Lane.stored, ScatterGroup.setLane]

theorem publishMove_shaped (hpub : l.publishing = true)
    (h : publishMove run w d g l s = .next t) : Shaped t := by
  unfold publishMove at h
  rcases (Lane.publishing_iff l).1 hpub with hls | hls
  · simp only [hls] at h
    split at h
    · next hw => exact readBase_shaped hshape hg hl hlive hph hls hw h
    · next hw => exact publishAggregate_shaped hshape hwf hg hl hlive hph hls hw h
  · simp only [hls] at h
    exact publishFirst_shaped hshape hwf hg hl hlive hph hls h

end Publish

/-- A lane in the middle of its look-back: its Aggregate is its only store, its cursor is below its workgroup and its
retries are within the budget (43_scatter.md R43, R178, R185). -/
structure Walking (s : State) (p w d : Nat) (g : ScatterGroup) (l : Lane) : Prop where
  phase : g.phase = .lookback
  state : l.lstate = .walking
  group : w ≠ 0
  cursor : l.cursor < w
  retries : l.retries ≤ s.cfg.spinBudget
  older : l.older.length = 1
  word : loadWord s .hist (pidx w d) = psw (aggTag p) (arrayAt g.counts d)

theorem GroupShape.walking {s : State} {p w d : Nat} {g : ScatterGroup} {l : Lane} (h : GroupShape s p w g)
    (hl : g.lanes[d]? = some l) (hph : g.phase = .lookback) (hpoll : l.polling = true) : Walking s p w d g l := by
  have hls := (Lane.polling_iff l).1 hpoll
  have hfits := h.fits d l hl
  simp only [laneFits, hph, hls, Bool.and_eq_true, bne_iff_ne, decide_eq_true_eq, beq_iff_eq] at hfits
  obtain ⟨⟨hw, hcur⟩, hret, holder⟩ := hfits
  obtain ⟨_, hword, _⟩ := (laneWordFits_aggregate (by simp [hls]) (by simp [hls]) (by simp [hls])).1 (h.words d l hl)
  exact ⟨hph, hls, hw, hcur, hret, holder, hword⟩

theorem Walking.after_draws {s t : State} {p w d : Nat} {g : ScatterGroup} {l : Lane} (h : Walking s p w d g l)
    (hd : DrawsFrom s t) : Walking t p w d g l :=
  ⟨h.phase, h.state, h.group, h.cursor, hd.sameRegisters.cfg ▸ h.retries, h.older,
    (loadWord_hist_congr hd.hist _).trans h.word⟩

/-- What the lane has read does not matter to its shape. -/
theorem Walking.seen {s : State} {p w d : Nat} {g : ScatterGroup} {l : Lane} (h : Walking s p w d g l) (i j : Nat) :
    Walking s p w d g { l with seenSlot := i, seenFailed := j } :=
  ⟨h.phase, h.state, h.group, h.cursor, h.retries, h.older, h.word⟩

section Poll

variable {s t : State} {run : ScatterRun} {w d : Nat} {g : ScatterGroup} {l₀ l : Lane}
  (hshape : ScatterShape s run) (hwf : Memory.wf s.hist = true) (hg : run.groups[w]? = some g)
  (hl : g.lanes[d]? = some l₀) (hlive : l₀.lost = false) (hwalk : Walking s run.pass w d g l)
include hshape hg hl hlive hwalk

/-- A poll that stores nothing: the lane goes on walking, or is lost, with its Aggregate in place. -/
theorem poll_shaped_of_hist {u : State} {g' : ScatterGroup} {l' : Lane} {older : List Word}
    (hcfg : u.cfg = s.cfg) (hhist : u.hist = s.hist) (hstep : LaneStep d l' g g') (hcur : l'.cursor ≤ l.cursor)
    (holder : l'.older = l.older)
    (hls : (l'.lstate = .walking ∧ l'.retries ≤ s.cfg.spinBudget) ∨ l'.lstate = .failed ∨ l'.lstate = .aborted) :
    Shaped (setScatter u { run.setGroup w g' with failedOlder := older }) := by
  have hlt : l'.cursor < w := hcur.trans_lt hwalk.cursor
  have hword : loadWord u .hist (pidx w d) = psw (aggTag run.pass) (arrayAt g'.counts d) := by
    rw [loadWord_hist_congr hhist, hstep.counts]
    exact hwalk.word
  refine hshape.laneStep hg hl hlive hstep hcfg (otherWordsKept_of_hist hhist w d) ?_ ?_
  · rcases hls with ⟨hls, hret⟩ | hls | hls
    · simp [laneFits, hwalk.phase, hwalk.group, hlt, hls, hret, holder, hwalk.older]
    · simp [laneFits, hwalk.phase, hwalk.group, hlt, hls, holder, hwalk.older]
    · simp [laneFits, hwalk.phase, hwalk.group, hlt, hls, holder, hwalk.older]
  · have hne : l'.lstate ≠ .waiting ∧ l'.lstate ≠ .based ∧ l'.lstate ≠ .resolved := by
      rcases hls with ⟨hls, _⟩ | hls | hls <;> simp [hls]
    obtain ⟨hwait, hbased, hres⟩ := hne
    exact (laneWordFits_aggregate hwait hbased hres).2 ⟨hwalk.group, hword, by rw [holder, hwalk.older]⟩

theorem abortLane_shaped (h : abortLane run w d g l s = .next t) : Shaped t := by
  obtain rfl := Host.Outcome.next.inj h
  exact poll_shaped_of_hist hshape hg hl hlive hwalk (older := run.failedOlder) rfl rfl (laneStep_lost g rfl) le_rfl rfl
    (.inr (.inr rfl))

theorem failLookback_shaped (h : failLookback run w d g l s = .next t) : Shaped t := by
  obtain rfl := Host.Outcome.next.inj h
  exact poll_shaped_of_hist hshape hg hl hlive hwalk (u := setSortFailed s) rfl rfl (laneStep_lost g rfl) le_rfl rfl
    (.inr (.inl rfl))

theorem advanceLane_shaped {c : Word} (h : advanceLane run w d g l c s = .next t) : Shaped t := by
  obtain rfl := Host.Outcome.next.inj h
  have hlive' : ∀ acc cur ret seen, ({ l with acc := acc, cursor := cur, retries := ret, seenSlot := seen } : Lane).lost
      = false := fun _ _ _ _ => by simp [Lane.lost, hwalk.state]
  exact poll_shaped_of_hist hshape hg hl hlive hwalk (older := run.failedOlder) rfl rfl
    (laneStep_setLane g (hlive' _ _ _ _)) (Nat.sub_le _ _) rfl (.inl ⟨hwalk.state, Nat.zero_le _⟩)

theorem retryLane_shaped (hret : l.retries + 1 ≤ s.cfg.spinBudget) (h : retryLane run w d g l s = .next t) :
    Shaped t := by
  obtain rfl := Host.Outcome.next.inj h
  have hlive' : ({ l with retries := l.retries + 1 } : Lane).lost = false := by simp [Lane.lost, hwalk.state]
  exact poll_shaped_of_hist hshape hg hl hlive hwalk (older := run.failedOlder) rfl rfl (laneStep_setLane g hlive')
    le_rfl rfl (.inl ⟨hwalk.state, hret⟩)

include hwf

/-- The lane resolves: its Prefix, base plus count, goes over its Aggregate (R185). -/
theorem resolveLane_shaped {c : Word} (h : resolveLane run w d g l c s = .next t) : Shaped t := by
  have hgroup := hshape w g hg
  have hd := hgroup.lane_lt hl
  obtain ⟨_, h⟩ := guardSpace_next.1 h
  obtain rfl := Host.Outcome.next.inj h
  refine hshape.laneStep hg hl hlive (laneStep_setExcl g rfl _) (by simp [publishWord])
    (otherWordsKept_publishWord hwf hd _) ?_ ?_
  · simp [laneFits, hwalk.phase, hwalk.group, hwalk.cursor, hwalk.older, Lane.stored]
  · have hexcl : arrayAt (g.excl.set d (l.acc + c)) d = l.acc + c := arrayAt_set_same (hgroup.excl ▸ hd) _
    simp [laneWordFits, loadWord_publishWord hwf, hexcl, hwalk.group, hwalk.older, hwalk.word, Lane.stored,
      ScatterGroup.setLane]

theorem pollSlot_shaped (h : pollSlot run w d g l s = .next t) : Shaped t := by
  obtain ⟨_, h⟩ := guardSpace_next.1 h
  have hd := loadCoherent_draws (loadWord s .hist (pidx l.cursor d)) (slotOlder run l.cursor d) l.seenSlot s
  have hshape' := hshape.after_draws hd
  have hwalk' := (hwalk.after_draws hd).seen
    (loadCoherent (loadWord s .hist (pidx l.cursor d)) (slotOlder run l.cursor d) l.seenSlot s).1 l.seenFailed
  simp only at h
  split at h
  case h_1 => exact resolveLane_shaped hshape' (hd.hist ▸ hwf) hg hl hlive hwalk' h
  case h_2 => exact advanceLane_shaped hshape' hg hl hlive hwalk' h
  case h_3 hout =>
    refine retryLane_shaped hshape' hg hl hlive hwalk' ?_ h
    rw [hd.sameRegisters.cfg]
    exact pollOutcome_contention hout
  case h_4 => exact failLookback_shaped hshape' hg hl hlive hwalk' h

theorem poll_shaped (h : poll run w d g l s = .next t) : Shaped t := by
  have hd := loadCoherent_draws s.sortFailed run.failedOlder l.seenFailed s
  have hshape' := hshape.after_draws hd
  have hwalk' := (hwalk.after_draws hd).seen l.seenSlot
    (loadCoherent s.sortFailed run.failedOlder l.seenFailed s).1
  unfold poll at h
  simp only at h
  split at h
  · exact abortLane_shaped hshape' hg hl hlive hwalk' h
  · exact pollSlot_shaped hshape' (hd.hist ▸ hwf) hg hl hlive hwalk' h

end Poll

/-- Every move of a lane that can move keeps the shape. -/
theorem laneMove_shaped {s t : State} {run : ScatterRun} {w d : Nat} {g : ScatterGroup} {l : Lane}
    (hshape : ScatterShape s run) (hwf : Memory.wf s.hist = true) (hg : run.groups[w]? = some g)
    (hl : g.lanes[d]? = some l) (hact : l.active g.phase) (h : laneMove run w d g l s = .next t) : Shaped t := by
  have hlive := Lane.lost_of_active hact
  rcases hact with ⟨hph, hpub⟩ | ⟨hph, hpoll⟩
  · simp only [laneMove, hph] at h
    exact publishMove_shaped hshape hwf hg hl hlive hph hpub h
  · simp only [laneMove, hph] at h
    exact poll_shaped hshape hwf hg hl hlive ((hshape w g hg).walking hl hph hpoll) h

/-! ## Moves of a workgroup as a whole -/

section Phases

variable {budget w : Nat} {l : Lane}

/-- Past its PUBLISH barrier a lane of workgroup 0 is resolved (43_scatter.md R179). -/
theorem laneFits_write_of_publish (h : laneFits budget w .publish l = true) (hended : l.publishing = false)
    (hw : w = 0) : laneFits budget w .write l = true := by
  cases hls : l.lstate <;> simp_all [laneFits, Lane.publishing]

/-- Past its PUBLISH barrier a lane of a workgroup above 0 has its Aggregate published (R178). -/
theorem published_of_publish (h : laneFits budget w .publish l = true) (hended : l.publishing = false) (hw : w ≠ 0) :
    l.lstate = .published ∧ l.older.length = 1 := by
  cases hls : l.lstate <;> simp_all [laneFits, Lane.publishing]

theorem laneFits_startWalk (hw : w ≠ 0) (holder : l.older.length = 1) :
    laneFits budget w .lookback (l.startWalk w) = true := by
  have hlt : w - 1 < w := by omega
  simp [laneFits, Lane.startWalk, hw, holder, hlt]

/-- Past its look-back a lane is terminal (R181, R188). -/
theorem laneFits_failed_of_lookback (h : laneFits budget w .lookback l = true) (hended : l.polling = false) :
    laneFits budget w .failed l = true := by
  cases hls : l.lstate <;> simp_all [laneFits, Lane.polling, Lane.terminal]

/-- Past its look-back a lane that is not lost is resolved (R188). -/
theorem laneFits_write_of_lookback (h : laneFits budget w .lookback l = true) (hended : l.polling = false)
    (hlive : l.lost = false) : laneFits budget w .write l = true := by
  cases hls : l.lstate <;> simp_all [laneFits, Lane.polling, Lane.lost]

end Phases

/-- A workgroup in another phase, its lanes mapped by f, keeps its shape when every lane and its word fit. -/
theorem GroupShape.mapLanes {s : State} {p w : Nat} {g g' : ScatterGroup} (f : Lane → Lane) (h : GroupShape s p w g)
    (hlanes : g'.lanes = g.lanes.map f) (hexcl : g'.excl = g.excl) (hflag : g'.scatterFailed = g.scatterFailed)
    (hfailed : g'.phase = .failed → g.scatterFailed = true)
    (hfits : ∀ (d : Nat) (l : Lane), g.lanes[d]? = some l →
      laneFits s.cfg.spinBudget w g'.phase (f l) = true ∧ laneWordFits s p w d g' (f l) = true ∧ (f l).lost = l.lost) :
    GroupShape s p w g' := by
  have hlane : ∀ {d : Nat} {m : Lane}, g'.lanes[d]? = some m → ∃ l, g.lanes[d]? = some l ∧ f l = m := by
    intro d m hm
    rw [hlanes, List.getElem?_map] at hm
    exact Option.map_eq_some_iff.1 hm
  refine ⟨?_, hexcl ▸ h.excl, fun d m hm => ?_, fun d m hm => ?_, ?_, fun hph => hflag.trans (hfailed hph)⟩
  · rw [hlanes, List.length_map]
    exact h.lanes
  · obtain ⟨l, hl, rfl⟩ := hlane hm
    obtain ⟨hfit, _, _⟩ := hfits d l hl
    exact hfit
  · obtain ⟨l, hl, rfl⟩ := hlane hm
    obtain ⟨_, hword, _⟩ := hfits d l hl
    exact hword
  · have hlost : ∀ l ∈ g.lanes, (f l).lost = l.lost := fun l hl => by
      obtain ⟨d, hd⟩ := List.mem_iff_getElem?.1 hl
      obtain ⟨_, _, hsame⟩ := hfits d l hd
      exact hsame
    rw [hflag, h.lost, hlanes, List.any_map, Bool.eq_iff_iff, List.any_eq_true, List.any_eq_true]
    exact exists_congr fun l => and_congr_right fun hl => by rw [Function.comp_apply, hlost l hl]

/-- A workgroup that goes on, with no partition word stored. -/
theorem ScatterShape.phaseStep {s t : State} {run : ScatterRun} {w : Nat} {g' : ScatterGroup} (h : ScatterShape s run)
    (hcfg : t.cfg = s.cfg) (hhist : t.hist = s.hist) (hg' : GroupShape s run.pass w g') :
    Shaped (setScatter t (run.setGroup w g')) :=
  shaped_setScatter (ScatterShape.setGroup (older := run.failedOlder) h hcfg (otherWordsKept_of_hist hhist w 0)
    (hg'.of_words hcfg fun _ _ => loadWord_hist_congr hhist _))

theorem placeAll_hist (s : State) (p : Nat) (ps : List Placed) : (placeAll s p ps).hist = s.hist := by
  obtain ⟨hkeys, hpays⟩ := dest_ne_hist p
  change memOf (placeAll s p ps) .hist = memOf s .hist
  rw [placeAll, storeWords, memOf_setMem_other _ _ hpays.symm, storeWords, memOf_setMem_other _ _ hkeys.symm]

section Group

variable {s t : State} {run : ScatterRun} {w : Nat} {g : ScatterGroup}
  (hshape : ScatterShape s run) (hg : run.groups[w]? = some g)
include hshape hg

/-- LOAD: the lanes have done nothing yet (R174). -/
theorem scatterLoad_shaped (hph : g.phase = .load) (h : scatterLoad run w g s = .next t) : Shaped t := by
  obtain ⟨_, h⟩ := guardSpace_next.1 h
  obtain ⟨_, h⟩ := guardSpace_next.1 h
  obtain rfl := Host.Outcome.next.inj h
  have hgroup := hshape w g hg
  refine hshape.phaseStep rfl rfl (hgroup.mapLanes id (by simp [scatterLoaded]) rfl rfl nofun fun d l hl => ?_)
  obtain rfl : l = laneStart w := by simpa [laneFits, hph] using hgroup.fits d l hl
  exact ⟨rfl, rfl, rfl⟩

/-- The barrier after PUBLISH: workgroup 0 is resolved, every other starts to walk (R178, R179). -/
theorem publishBarrier_shaped (hph : g.phase = .publish) (hall : ∀ l ∈ g.lanes, l.publishing = false)
    (h : publishBarrier run w g s = .next t) : Shaped t := by
  obtain rfl := Host.Outcome.next.inj h
  have hgroup := hshape w g hg
  have hended : ∀ {d : Nat} {l : Lane}, g.lanes[d]? = some l →
      laneFits s.cfg.spinBudget w .publish l = true ∧ l.publishing = false :=
    fun hl => ⟨hph ▸ hgroup.fits _ _ hl, hall _ (List.mem_of_getElem? hl)⟩
  refine hshape.phaseStep rfl rfl ?_
  split
  · next hw =>
    refine hgroup.mapLanes id (by simp) rfl rfl nofun fun d l hl => ?_
    obtain ⟨hfits, hpub⟩ := hended hl
    exact ⟨laneFits_write_of_publish hfits hpub hw, hgroup.words d l hl, rfl⟩
  · next hw =>
    refine hgroup.mapLanes (fun l => l.startWalk w) rfl rfl rfl nofun fun d l hl => ?_
    obtain ⟨hfits, hpub⟩ := hended hl
    obtain ⟨hls, holder⟩ := published_of_publish hfits hpub hw
    have hword := (laneWordFits_aggregate (by simp [hls]) (by simp [hls]) (by simp [hls])).1 (hgroup.words d l hl)
    refine ⟨laneFits_startWalk hw holder, (laneWordFits_aggregate ?_ ?_ ?_).2 hword, ?_⟩
    all_goals simp [Lane.startWalk, Lane.lost, hls]

/-- The barrier after look-back: only a workgroup without a lost lane goes on to WRITE (R188). -/
theorem lookbackBarrier_shaped (hph : g.phase = .lookback) (hall : ∀ l ∈ g.lanes, l.polling = false)
    (h : lookbackBarrier run w g s = .next t) : Shaped t := by
  obtain rfl := Host.Outcome.next.inj h
  have hgroup := hshape w g hg
  refine hshape.phaseStep rfl rfl (hgroup.mapLanes id (by simp) rfl rfl (by simp) fun d l hl => ?_)
  have hfits : laneFits s.cfg.spinBudget w .lookback l = true := hph ▸ hgroup.fits d l hl
  have hended := hall l (List.mem_of_getElem? hl)
  refine ⟨?_, hgroup.words d l hl, rfl⟩
  cases hflag : g.scatterFailed with
  | true => exact laneFits_failed_of_lookback hfits hended
  | false =>
    have hlive : ∀ m ∈ g.lanes, ¬ m.lost = true := List.any_eq_false.1 (hgroup.lost ▸ hflag)
    exact laneFits_write_of_lookback hfits hended (by simpa using hlive l (List.mem_of_getElem? hl))

/-- WRITE stores to the destination only (R190). -/
theorem scatterWrite_shaped (hph : g.phase = .write) (h : scatterWrite run w g s = .next t) : Shaped t := by
  obtain ⟨_, h⟩ := guardSpace_next.1 h
  obtain ⟨_, h⟩ := guardSpace_next.1 h
  obtain rfl := Host.Outcome.next.inj h
  obtain ⟨_, hd⟩ := writeOrder_spec (stored s.cfg run g) s
  have hgroup := hshape w g hg
  have hcfg : ∀ ps, (placeAll (writeOrder (stored s.cfg run g) s).2 run.pass ps).cfg = s.cfg :=
    fun ps => by simp [placeAll, hd.sameRegisters.cfg]
  refine hshape.phaseStep (hcfg _) ((placeAll_hist _ _ _).trans hd.hist)
    (hgroup.mapLanes id (by simp) rfl rfl nofun fun d l hl => ⟨?_, hgroup.words d l hl, rfl⟩)
  have hfits := hgroup.fits d l hl
  rw [hph] at hfits
  exact hfits

theorem scatterGroupMove_shaped (hready : g.ready) (h : scatterGroupMove run w g s = .next t) : Shaped t := by
  rcases hready with hph | hph | ⟨hph, hall⟩ | ⟨hph, hall⟩
  all_goals simp only [scatterGroupMove, hph] at h
  · exact scatterLoad_shaped hshape hg hph h
  · exact scatterWrite_shaped hshape hg hph h
  · exact publishBarrier_shaped hshape hg hph hall h
  · exact lookbackBarrier_shaped hshape hg hph hall h

end Group

/-! ## Every move -/

/-- Every move of an agent of the scatter keeps the shape. -/
theorem scatterAgent_shaped {s t : State} {run : ScatterRun} {a : Agent} (hshape : ScatterShape s run)
    (hwf : Memory.wf s.hist = true) (ha : a ∈ dispatchAgents (.scatter run))
    (h : agentMove (.scatter run) a s = .next t) : Shaped t := by
  cases a with
  | host => exact absurd rfl (dispatchAgents_kind ha).1
  | sequencer => exact absurd rfl (dispatchAgents_kind ha).2
  | group w =>
    obtain ⟨g, hg, hready⟩ := group_mem_dispatchAgents_scatter.1 ha
    simp only [agentMove, groupMove, hg] at h
    exact scatterGroupMove_shaped hshape hg hready h
  | lane w d =>
    obtain ⟨g, l, hg, hl, hact⟩ := lane_mem_dispatchAgents_scatter.1 ha
    simp only [agentMove, digitLaneMove, hg, hl] at h
    exact laneMove_shaped hshape hwf hg hl hact h

/-- What the host does while a scatter executes leaves its shape, or ends it. -/
theorem HostEffect.shaped {s t : State} {run : ScatterRun} (h : HostEffect s t) (he : s.executing = some (.scatter run))
    (hshape : ScatterShape s run) : Shaped t := by
  have hbusy := busy_of_executing he
  have hsame : t.executing = s.executing → t.cfg = s.cfg → t.hist = s.hist → Shaped t := by
    intro hexec hcfg hhist run' he'
    obtain rfl : run = run' := by simpa [hexec, he] using he'
    exact hshape.of_hist hcfg hhist
  cases h with
  | reset => exact nofun
  | answer v => exact hsame rfl rfl rfl
  | queue v _ => exact hsame rfl rfl rfl
  | numKeys v idle => simp [hbusy] at idle
  | paddedSize v idle => simp [hbusy] at idle
  | store sp i v idle _ => simp [hbusy] at idle

/-- The sequencer's move ends a scatter. -/
theorem Completion.shaped {s t : State} {run : ScatterRun} (h : Completion s (.scatter run) t) : Shaped t := by
  intro run' he
  rcases h.executing with hnone | ⟨_, hzero, _⟩
  · simp [hnone] at he
  · simp at hzero

/-- A move of an executing command leaves the parameters alone (10_state.md R46). -/
theorem dispatchMove_cfg {s t : State} {e : Executing} (he : s.executing = some e) (h : dispatchMove e s = .next t) :
    t.cfg = s.cfg := by
  obtain ⟨s', hd, hcase⟩ := dispatchMove_cases he h
  refine Eq.trans ?_ hd.sameRegisters.cfg
  rcases hcase with ⟨hr, hhost⟩ | hcomp | ⟨a, ha, hagent⟩
  · obtain ⟨op, rest, _, heff⟩ := hostMove_next hr hhost
    exact heff.cfg
  · exact (completeMove_next hcomp).sameBus.cfg
  · exact (dispatchAgent_worked ha hagent).registers.cfg

/-- Settles O29: the host and the sequencer leave or end the scatter, and each move of a workgroup or a lane leaves the
lanes, their words and scatter_failed as the shape has them. -/
theorem everyMoveKeepsTheScatterShape : Obligations.EveryMoveKeepsTheScatterShape := by
  intro s t run run' he hwf hruns hwords hmove ht
  obtain ⟨s', hd, hcase⟩ := dispatchMove_cases he hmove
  have hshape := (scatterShape_iff.2 ⟨hruns, hwords⟩).after_draws hd
  have hshaped : Shaped t := by
    rcases hcase with ⟨hr, hhost⟩ | hcomp | ⟨a, ha, hagent⟩
    · obtain ⟨op, rest, _, heff⟩ := hostMove_next hr hhost
      exact heff.shaped (hd.executing.trans he) (hshape.of_hist rfl rfl)
    · exact (completeMove_next hcomp).shaped
    · exact scatterAgent_shaped hshape (hd.hist ▸ hwf) ha hagent
  rw [← dispatchMove_cfg he hmove]
  exact scatterShape_iff.1 (hshaped run' ht)

end Sys2Proof.Machine

namespace Sys2Proof

/-! # Command words

Where the two fields of a command word lie in its value, what decode answers on each kind of word, and that it answers
a command exactly on that command's encoding (30_encoding.md R90 to R93). -/

theorem rsvField_toNat (c : Word) : (rsvField c).toNat = c.toNat / 256 := by
  rw [rsvField, BitVec.extractLsb'_toNat, Nat.shiftRight_eq_div_pow]
  omega

theorem opcField_toNat (c : Word) : (opcField c).toNat = c.toNat % 256 := by
  simp [opcField, BitVec.extractLsb'_toNat]

theorem rsvField_eq_zero_iff (c : Word) : rsvField c = 0 ↔ c.toNat / 256 = 0 := by
  rw [← BitVec.toNat_inj, rsvField_toNat]
  rfl

theorem opcField_eq_iff (c : Word) (b : BitVec 8) : opcField c = b ↔ c.toNat % 256 = b.toNat := by
  rw [← BitVec.toNat_inj, opcField_toNat]

/-- A word is its two fields. -/
theorem rsvField_append_opcField (c : Word) : rsvField c ++ opcField c = c := by
  apply BitVec.eq_of_toNat_eq
  rw [BitVec.toNat_append, ← Nat.shiftLeft_add_eq_or_of_lt (opcField c).isLt, Nat.shiftLeft_eq, rsvField_toNat,
    opcField_toNat]
  omega

theorem commandWord_statement (i : Instr) : Laws.CommandWord.Statement i := by
  cases i with
  | zero => exact Laws.CommandWord.zero
  | histogram => exact Laws.CommandWord.histogram
  | prefixScan => exact Laws.CommandWord.prefixScan
  | scatterEven => exact Laws.CommandWord.scatterEven
  | scatterOdd => exact Laws.CommandWord.scatterOdd

/-- The encoding of a command is the word with RSV 0 and the command's OPC. -/
theorem eq_encode_iff {c : Word} {i : Instr} : c = encode i ↔ rsvField c = 0 ∧ opcField c = opcodeOf i := by
  constructor
  · rintro rfl
    obtain ⟨_, hfields⟩ := commandWord_statement i
    exact hfields
  · rintro ⟨hrsv, hopc⟩
    rw [encode, ← hrsv, ← hopc, rsvField_append_opcField]

theorem opcodeOf_range (i : Instr) : 1 ≤ (opcodeOf i).toNat ∧ (opcodeOf i).toNat ≤ 5 := by
  cases i <;> decide

/-! ## What decode answers -/

theorem decode_reserved {c : Word} (h : rsvField c ≠ 0) : decode c = .error .reservedNotZero := if_pos h

theorem decode_opcode {c : Word} {i : Instr} (hrsv : rsvField c = 0) (hopc : opcField c = opcodeOf i) :
    decode c = .ok i := by
  cases i <;> simp [decode, hrsv, hopc, opcodeOf]

theorem decode_noOpcode {c : Word} (hrsv : rsvField c = 0) (hopc : ∀ i, opcField c ≠ opcodeOf i) :
    decode c = .error .noSuchOpcode := by
  have hzero : opcField c ≠ 0x01 := hopc .zero
  have hhistogram : opcField c ≠ 0x02 := hopc .histogram
  have hscan : opcField c ≠ 0x03 := hopc .prefixScan
  have heven : opcField c ≠ 0x04 := hopc .scatterEven
  have hodd : opcField c ≠ 0x05 := hopc .scatterOdd
  simp only [decode, hrsv, hzero, hhistogram, hscan, heven, hodd, ne_eq, not_true_eq_false, if_false]

theorem decode_encode (i : Instr) : decode (encode i) = .ok i := by
  obtain ⟨_, hrsv, hopc⟩ := commandWord_statement i
  exact decode_opcode hrsv hopc

/-- Only a command's encoding decodes to it. -/
theorem decode_eq_ok_iff {c : Word} {i : Instr} : decode c = .ok i ↔ c = encode i := by
  refine ⟨fun h => ?_, fun h => h ▸ decode_encode i⟩
  by_cases hrsv : rsvField c = 0
  · by_cases hopc : ∃ j, opcField c = opcodeOf j
    · obtain ⟨j, hopc⟩ := hopc
      obtain rfl : j = i := Except.ok.inj ((decode_opcode hrsv hopc).symm.trans h)
      exact eq_encode_iff.2 ⟨hrsv, hopc⟩
    · rw [decode_noOpcode hrsv (not_exists.1 hopc)] at h
      cases h
  · rw [decode_reserved hrsv] at h
    cases h

/-- The encoding of a command, by the value of the word. -/
theorem decode_of_opc_value {c : Word} (i : Instr) (hrsv : c.toNat / 256 = 0)
    (hopc : c.toNat % 256 = (opcodeOf i).toNat) : decode c = .ok i :=
  decode_opcode ((rsvField_eq_zero_iff c).2 hrsv) ((opcField_eq_iff c _).2 hopc)

/-- No command has OPC 0 or an OPC from 6 on. -/
theorem opcField_ne_opcodeOf {c : Word} (h : c.toNat % 256 = 0 ∨ 6 ≤ c.toNat % 256) (i : Instr) :
    opcField c ≠ opcodeOf i := by
  intro heq
  have hvalue := (opcField_eq_iff c _).1 heq
  have hrange := opcodeOf_range i
  omega

/-- The words that are no command are rejected (30_encoding.md R93). -/
theorem decode_illegal {c : Word} (h : c.toNat / 256 ≠ 0 ∨ c.toNat % 256 = 0 ∨ 6 ≤ c.toNat % 256) :
    ∃ r, decode c = .error r := by
  by_cases hrsv : rsvField c = 0
  · have hopc := h.resolve_left (not_not.2 ((rsvField_eq_zero_iff c).1 hrsv))
    exact ⟨_, decode_noOpcode hrsv (opcField_ne_opcodeOf hopc)⟩
  · exact ⟨_, decode_reserved hrsv⟩

/-- The first four of a list of bytes are decoded as the word they are (20_memory.md R61). -/
theorem decodeBytes_bytesOfWord (v : Word) (rest : List Byte) :
    decodeBytes (bytesOfWord v ++ rest) = some (decode v, rest) := by
  have hbytes : decodeBytes (bytesOfWord v ++ rest) = some (decode
      (wordOfBytes (byteOfWord v 0) (byteOfWord v 1) (byteOfWord v 2) (byteOfWord v 3)), rest) := rfl
  rw [hbytes, Machine.wordOfBytes_byteOfWord]

/-- Settles O2: the fields of c say which of decode's three answers it gets. -/
theorem decodingIsTotalOnFiveWords : Obligations.DecodingIsTotalOnFiveWords := by
  intro c
  refine ⟨fun hrsv => decode_reserved (mt (rsvField_eq_zero_iff c).1 hrsv), fun hrsv => ?_,
    fun i => decode_eq_ok_iff.1⟩
  exact ⟨decode_of_opc_value .zero hrsv, decode_of_opc_value .histogram hrsv, decode_of_opc_value .prefixScan hrsv,
    decode_of_opc_value .scatterEven hrsv, decode_of_opc_value .scatterOdd hrsv,
    fun hopc => decode_noOpcode ((rsvField_eq_zero_iff c).2 hrsv) (opcField_ne_opcodeOf hopc)⟩

/-- Settles O1: the word by decode_encode, the bytes because they are that word's. -/
theorem encodedCommandDecodes : Obligations.EncodedCommandDecodes := by
  intro i rest _
  refine ⟨decode_encode i, ?_⟩
  rw [decodeBytes_bytesOfWord, decode_encode]

/-- Settles O3: the five words are the five encodings. -/
theorem writtenWordsDecode : Obligations.WrittenWordsDecode :=
  ⟨decode_encode .zero, decode_encode .histogram, decode_encode .prefixScan, decode_encode .scatterEven,
    decode_encode .scatterOdd⟩

end Sys2Proof

namespace Sys2Proof.Machine

/-! # Partition words

The fields of a partition word by its value, and how a pass reads each of its tags (30_encoding.md R96 to R102). -/

theorem tagOf_toNat (v : Word) : (tagOf v).toNat = v.toNat / 2 ^ 30 := by
  rw [tagOf, BitVec.extractLsb'_toNat, Nat.shiftRight_eq_div_pow]
  omega

theorem countOf_toNat (v : Word) : (countOf v).toNat = v.toNat % 2 ^ 30 := by
  rw [countOf, BitVec.toNat_setWidth, BitVec.extractLsb'_toNat, Nat.shiftRight_zero]
  omega

theorem tagOf_of_value {v : Word} {n : Nat} (h : v.toNat / 2 ^ 30 = n) : tagOf v = BitVec.ofNat 2 n := by
  rw [← h, ← tagOf_toNat, BitVec.ofNat_toNat, BitVec.setWidth_eq]

/-- A count of at most 30 bits does not reach the tag's. -/
theorem psw_toNat (tag : BitVec 2) {c : Word} (h : c.toNat ≤ Config.countMax) :
    (psw tag c).toNat = tag.toNat * 2 ^ 30 + c.toNat := by
  have htag := tag.isLt
  have hcount : c.toNat < 2 ^ 30 := Nat.lt_of_le_of_lt h (by decide)
  have hshift : (tag.setWidth 32 <<< 30 : Word).toNat = tag.toNat <<< 30 := by
    rw [BitVec.toNat_shiftLeft, BitVec.toNat_setWidth, Nat.shiftLeft_eq, Nat.shiftLeft_eq]
    omega
  rw [psw, BitVec.toNat_or, hshift, ← Nat.shiftLeft_add_eq_or_of_lt hcount, Nat.shiftLeft_eq]

theorem tagOf_psw (tag : BitVec 2) {c : Word} (h : c.toNat ≤ Config.countMax) : tagOf (psw tag c) = tag := by
  apply BitVec.eq_of_toNat_eq
  rw [tagOf_toNat, psw_toNat tag h]
  unfold Config.countMax at h
  omega

theorem countOf_psw (tag : BitVec 2) {c : Word} (h : c.toNat ≤ Config.countMax) : countOf (psw tag c) = c := by
  apply BitVec.eq_of_toNat_eq
  rw [countOf_toNat, psw_toNat tag h]
  unfold Config.countMax at h
  omega

/-- Settles O5: the word by its value, and the two fields read from it. -/
theorem statusWordHoldsTagAndCount : Obligations.StatusWordHoldsTagAndCount :=
  fun tag _ hc => ⟨psw_toNat tag hc, tagOf_psw tag hc, countOf_psw tag hc⟩

/-! ## The status a pass reads -/

theorem aggTag_ne_invTag (p : Nat) : aggTag p ≠ invTag p := by
  unfold aggTag invTag
  split <;> decide

theorem preTag_ne_invTag (p : Nat) : preTag p ≠ invTag p := by
  unfold preTag invTag
  split <;> decide

theorem preTag_ne_aggTag (p : Nat) : preTag p ≠ aggTag p := by
  unfold preTag aggTag
  split <;> decide

/-- The tags rotate: what one pass leaves as Prefix is Invalid to the next (30_encoding.md R98). -/
theorem invTag_succ (p : Nat) : invTag (p + 1) = preTag p := by
  by_cases heven : p % 2 = 0
  · have hnext : ¬ (p + 1) % 2 = 0 := by omega
    rw [invTag, preTag, if_neg hnext, if_pos heven]
  · have hnext : (p + 1) % 2 = 0 := by omega
    rw [invTag, preTag, if_pos hnext, if_neg heven]

section Status

variable {v : Word} {p : Nat}

theorem status_invalid (h : tagOf v = invTag p) : status v p = (.invalid, countOf v) := if_pos h

theorem status_aggregate (h : tagOf v = aggTag p) : status v p = (.aggregate, countOf v) := by
  simp [status, h, aggTag_ne_invTag]

theorem status_inclusive (h : tagOf v = preTag p) : status v p = (.inclusive, countOf v) := by
  simp [status, h, preTag_ne_invTag, preTag_ne_aggTag]

theorem status_foreign (hinv : tagOf v ≠ invTag p) (hagg : tagOf v ≠ aggTag p) (hpre : tagOf v ≠ preTag p) :
    status v p = (.foreign, countOf v) := by
  simp [status, hinv, hagg, hpre]

end Status

/-- Settles O6: the tag's value picks the case of R100, the parity of the pass which tag that is. -/
theorem statusWordDecodesByParity : Obligations.StatusWordDecodesByParity := by
  intro v p
  refine ⟨countOf_toNat v, fun heven => ?_, fun hodd => ?_⟩
  · have hinv : invTag p = 0 := if_pos heven
    have hagg : aggTag p = 1 := if_pos heven
    have hpre : preTag p = 2 := if_pos heven
    refine ⟨fun h => status_invalid ((tagOf_of_value h).trans hinv.symm),
      fun h => status_aggregate ((tagOf_of_value h).trans hagg.symm),
      fun h => status_inclusive ((tagOf_of_value h).trans hpre.symm), fun h => status_foreign ?_ ?_ ?_⟩
    all_goals simp [tagOf_of_value h, hinv, hagg, hpre]
  · have hne : ¬ p % 2 = 0 := by omega
    have hinv : invTag p = 2 := if_neg hne
    have hagg : aggTag p = 3 := if_neg hne
    have hpre : preTag p = 0 := if_neg hne
    refine ⟨fun h => status_invalid ((tagOf_of_value h).trans hinv.symm),
      fun h => status_aggregate ((tagOf_of_value h).trans hagg.symm),
      fun h => status_inclusive ((tagOf_of_value h).trans hpre.symm), fun h => status_foreign ?_ ?_ ?_⟩
    all_goals simp [tagOf_of_value h, hinv, hagg, hpre]

/-- Settles O7: each word's tag and count are what was published, and Prefix is the next pass's Invalid. -/
theorem rotatedTagsHideThePassBefore : Obligations.RotatedTagsHideThePassBefore := by
  refine ⟨fun p c hc => ⟨?_, ?_, ?_⟩, status_invalid (v := 0) (p := 0) rfl⟩
  · rw [status_aggregate (tagOf_psw _ hc), countOf_psw _ hc]
  · rw [status_inclusive (tagOf_psw _ hc), countOf_psw _ hc]
  · rw [status_invalid ((tagOf_psw _ hc).trans (invTag_succ p).symm), countOf_psw _ hc]

end Sys2Proof.Machine

namespace Sys2Proof.Machine

/-! # The host while BUSY, and an illegal word at the queue's head -/

/-! ## Host accesses, from what went through to what was addressed -/

theorem oneAlignedWord_size {offset size : Nat} (h : oneAlignedWord offset size = true) : size = 4 := by
  simp only [oneAlignedWord, Bool.and_eq_true, beq_iff_eq] at h
  obtain ⟨hsize, _⟩ := h
  exact hsize

theorem offset_of_regAt {offset : Nat} {r : Reg} (h : regAt offset = some r) : offset = r.offset := by
  unfold regAt at h
  split_ifs at h <;> cases h <;> assumption

/-- While BUSY a write that goes through is one of a register. -/
theorem hostWrite_busy {s t : State} {tgt : Target} {offset size : Nat} {v : Word} (hbusy : busy s = true)
    (h : hostWrite s tgt offset size v = .next t) :
    ∃ r : Reg, tgt = .registers ∧ offset = r.offset ∧ size = 4 ∧ writeReg s r v = .next t := by
  by_cases hword : oneAlignedWord offset size = true
  · simp only [hostWrite, hword, Bool.not_true, Bool.false_eq_true, if_false] at h
    cases tgt with
    | registers =>
      simp only at h
      split at h
      · simp at h
      · next r hreg => exact ⟨r, rfl, offset_of_regAt hreg, oneAlignedWord_size hword, h⟩
    | space sp =>
      simp only [hbusy, if_true] at h
      split at h <;> simp at h
  · simp [hostWrite, hword] at h

/-- While BUSY the register that is written is CMD, and the queue has room (10_state.md R26, R33). -/
theorem writeReg_busy {s t : State} {r : Reg} {v : Word} (hbusy : busy s = true) (h : writeReg s r v = .next t) :
    r = .cmd ∧ s.queue.length < s.cfg.queueDepth ∧ t = { s with queue := s.queue ++ [v] } := by
  cases r <;> simp only [writeReg, hbusy, if_true] at h
  case cmd =>
    split at h
    · simp at h
    · next hroom => exact ⟨rfl, by omega, (Host.Outcome.next.inj h).symm⟩
  all_goals simp at h

/-- While BUSY a read that goes through is one of STATUS (30_encoding.md R106). -/
theorem hostRead_busy {s t : State} {tgt : Target} {offset size : Nat} (hbusy : busy s = true)
    (h : hostRead s tgt offset size = .next t) :
    tgt = .registers ∧ offset = Reg.status.offset ∧ size = 4 ∧ t = answer s (statusWord s) := by
  by_cases hword : oneAlignedWord offset size = true
  · simp only [hostRead, hword, hbusy, Bool.not_true, Bool.true_and, Bool.false_eq_true, if_false] at h
    cases tgt with
    | registers =>
      simp only at h
      split at h
      · simp at h
      · next r hreg =>
        split at h
        · simp at h
        · next hr =>
          obtain rfl : r = .status := by simpa using hr
          exact ⟨rfl, offset_of_regAt hreg, oneAlignedWord_size hword, (Host.Outcome.next.inj h).symm⟩
    | space sp =>
      simp only [if_true] at h
      split at h <;> simp at h
  · simp [hostRead, hword] at h

/-- What goes through while BUSY, but for a WAIT (30_encoding.md R106, 70_reset_and_hazards.md R290). -/
theorem hostOp_busy {s t : State} {op : HostOp} (hbusy : busy s = true) (hwait : op ≠ .wait)
    (h : hostOp s op = .next t) :
    (op = .reset ∧ t = resetEvent s) ∨ (op = opRead .status ∧ t = answer s (statusWord s)) ∨
      ∃ v, op = opWrite .cmd v ∧ s.queue.length < s.cfg.queueDepth ∧ t = { s with queue := s.queue ++ [v] } := by
  cases op with
  | write tgt offset size v =>
    obtain ⟨r, rfl, rfl, rfl, hreg⟩ := hostWrite_busy hbusy h
    obtain ⟨rfl, hroom, ht⟩ := writeReg_busy hbusy hreg
    exact .inr (.inr ⟨v, rfl, hroom, ht⟩)
  | read tgt offset size =>
    obtain ⟨rfl, rfl, rfl, ht⟩ := hostRead_busy hbusy h
    exact .inr (.inl ⟨rfl, ht⟩)
  | wait => exact absurd rfl hwait
  | reset => exact .inl ⟨rfl, (Host.Outcome.next.inj h).symm⟩

theorem hostReady_wait {s : State} {rest : List HostOp} (h : s.host = .wait :: rest) : hostReady s = !busy s := by
  simp [hostReady, h]

theorem hostReady_nonempty {s : State} (h : hostReady s = true) : ∃ op rest, s.host = op :: rest := by
  refine List.exists_cons_of_ne_nil fun hnil => ?_
  simp [hostReady_nil hnil] at h

theorem hostMove_cons {s : State} {op : HostOp} {rest : List HostOp} (h : s.host = op :: rest) :
    hostMove s = hostOp { s with host := rest } op := by
  simp only [hostMove, h]

/-- Bit 0 of STATUS is BUSY (10_state.md R27). -/
theorem statusWord_bit_zero (s : State) : (statusWord s).toNat % 2 = (busy s).toNat := by
  have hbit := Bool.toNat_lt (busy s)
  rw [statusWord, statusBits_toNat]
  omega

/-- Settles O17: hostOp_busy for the host's next operation, which is no WAIT since the host can move. -/
theorem busyHostOnlyReadsStatusOrQueues : Obligations.BusyHostOnlyReadsStatusOrQueues := by
  refine ⟨fun s t hbusy hready hmove => ?_, fun s rest hhost => ⟨fun hbusy => ?_, fun hidle => ⟨?_, ?_, ?_⟩⟩⟩
  · obtain ⟨op, rest, hhost⟩ := hostReady_nonempty hready
    have hwait : op ≠ .wait := by
      rintro rfl
      simp [hostReady_wait hhost, hbusy] at hready
    rw [hostMove_cons hhost] at hmove
    exact ⟨op, rest, hhost, hostOp_busy (s := { s with host := rest }) hbusy hwait hmove⟩
  · simp [hostReady_wait hhost, hbusy]
  · simp [hostReady_wait hhost, hidle]
  · rw [hostMove_cons hhost]
    rfl
  · simp [statusWord_bit_zero, hidle]

/-! ## An illegal word -/

theorem fetch_cons {s : State} {c : Word} {rest : List Word} (h : s.queue = c :: rest) :
    fetch s = some (decode c, { s with queue := rest }) := by
  simp only [fetch, h]

/-- The sequencer's move on a word that is no command: dropped, CMD_ERR set (30_encoding.md R93). -/
theorem sequencerMove_rejected {s : State} {c : Word} {rest : List Word} {r : Reject} (hq : s.queue = c :: rest)
    (hd : decode c = .error r) : sequencerMove s = .next (discard { s with queue := rest }) := by
  simp only [sequencerMove, fetch_cons hq, hd]

/-- With a word queued, no command executing and a host that cannot move, the step is the sequencer's. -/
theorem step_eq_sequencerMove {s : State} (hidle : s.executing = none) (hq : s.queue ≠ [])
    (hhost : hostReady s = false) : step s = sequencerMove s := by
  have henabled : enabledAgents s = [.sequencer] := by
    simp [enabledAgents, engineAgents, hidle, hq, hhost]
  simp only [step, hidle, idleMove, henabled, pick_singleton]

/-- Settles O4: the word is rejected, so the sequencer discards it, and the rest of the queue stays. -/
theorem illegalWordOnlySetsCmdErr : Obligations.IllegalWordOnlySetsCmdErr := by
  intro s c rest hidle hq hillegal
  obtain ⟨r, hd⟩ := decode_illegal hillegal
  have hmove := sequencerMove_rejected hq hd
  exact ⟨hmove, fun hhost => (step_eq_sequencerMove hidle (by simp [hq]) hhost).trans hmove,
    fun c' rest' hrest => fetch_cons hrest⟩

end Sys2Proof.Machine

namespace Sys2Proof.Machine

/-! # Digits of a key

A digit by its value, and the order of keys by their low digits: taking one more digit in, that digit decides first
(40_digit_extractor.md R120 to R123). -/

theorem digit_toNat (k : Word) (p : Nat) : (digit k p).toNat = k.toNat / 2 ^ (8 * p) % 256 := by
  rw [digit, BitVec.toNat_and, BitVec.toNat_ushiftRight, Nat.shiftRight_eq_div_pow]
  exact Nat.and_two_pow_sub_one_eq_mod _ 8

theorem digit_le (k : Word) (p : Nat) : (digit k p).toNat ≤ 255 := by
  rw [digit_toNat]
  omega

/-- The number that digits 0 to n - 1 of a key spell. -/
def lowDigits (k : Word) (n : Nat) : Nat := k.toNat % 2 ^ (8 * n)

theorem lowDigits_zero (k : Word) : lowDigits k 0 = 0 := Nat.mod_one _

theorem lowDigits_four (k : Word) : lowDigits k 4 = k.toNat := Nat.mod_eq_of_lt k.isLt

theorem lowDigits_lt (k : Word) (n : Nat) : lowDigits k n < 2 ^ (8 * n) := Nat.mod_lt _ (by positivity)

theorem lowDigits_succ (k : Word) (n : Nat) :
    lowDigits k (n + 1) = lowDigits k n + 2 ^ (8 * n) * (digit k n).toNat := by
  rw [lowDigits, Nat.mul_succ, Nat.pow_add, Nat.mod_mul, digit_toNat, lowDigits]

/-- The lower digits together are less than one step of digit n. -/
theorem lowDigits_succ_lt_of_digit_lt {a b : Word} {n : Nat} (h : (digit a n).toNat < (digit b n).toNat) :
    lowDigits a (n + 1) < lowDigits b (n + 1) := by
  rw [lowDigits_succ, lowDigits_succ]
  calc lowDigits a n + 2 ^ (8 * n) * (digit a n).toNat
      < 2 ^ (8 * n) * ((digit a n).toNat + 1) := by
        rw [Nat.mul_succ, Nat.add_comm]
        exact Nat.add_lt_add_left (lowDigits_lt a n) _
    _ ≤ 2 ^ (8 * n) * (digit b n).toNat := Nat.mul_le_mul_left _ h
    _ ≤ lowDigits b n + 2 ^ (8 * n) * (digit b n).toNat := Nat.le_add_left _ _

/-- Digit n decides, and where it agrees the digits below it do. -/
theorem lowDigits_succ_lt_iff (a b : Word) (n : Nat) :
    lowDigits a (n + 1) < lowDigits b (n + 1) ↔
      (digit a n).toNat < (digit b n).toNat ∨ digit a n = digit b n ∧ lowDigits a n < lowDigits b n := by
  rcases lt_trichotomy (digit a n).toNat (digit b n).toNat with hlt | heq | hgt
  · simp [hlt, lowDigits_succ_lt_of_digit_lt hlt]
  · simp [lowDigits_succ, BitVec.eq_of_toNat_eq heq]
  · have hne : digit a n ≠ digit b n := fun h => hgt.ne' (congrArg BitVec.toNat h)
    simp [hgt.not_gt, hne, (lowDigits_succ_lt_of_digit_lt hgt).not_gt]

/-- The low digits compare by the highest one that differs. -/
theorem lowDigits_lt_iff (a b : Word) (n : Nat) :
    lowDigits a n < lowDigits b n ↔
      ∃ p < n, (digit a p).toNat < (digit b p).toNat ∧ ∀ q, p < q → q < n → digit a q = digit b q := by
  induction n with
  | zero => simp [lowDigits_zero]
  | succ n ih =>
    rw [lowDigits_succ_lt_iff, ih]
    constructor
    · rintro (hlt | ⟨heq, p, hp, hlt, habove⟩)
      · exact ⟨n, n.lt_succ_self, hlt, fun q hnq hq => by omega⟩
      · refine ⟨p, by omega, hlt, fun q hpq hq => ?_⟩
        obtain hq | rfl := Nat.lt_succ_iff_lt_or_eq.1 hq
        · exact habove q hpq hq
        · exact heq
    · rintro ⟨p, hp, hlt, habove⟩
      obtain hp | rfl := Nat.lt_succ_iff_lt_or_eq.1 hp
      · exact .inr ⟨habove n hp n.lt_succ_self, p, hp, hlt, fun q hpq hq => habove q hpq (by omega)⟩
      · exact .inl hlt

/-- Settles O10: a key is its four digits, which compare by the highest one that differs. -/
theorem keysCompareByTheirHighestDifferentDigit : Obligations.KeysCompareByTheirHighestDifferentDigit := by
  intro a b
  rw [← lowDigits_four a, ← lowDigits_four b]
  exact lowDigits_lt_iff a b 4

/-- Settles O8: digit_toNat, and the rule's worked example. -/
theorem digitIsTheByteOfThePass : Obligations.DigitIsTheByteOfThePass :=
  ⟨fun k p _ => digit_toNat k p, by decide⟩

/-- Settles O9: the four digits of the one key SENTINEL, and digit_le. -/
theorem sentinelHasTheLargestDigits : Obligations.SentinelHasTheLargestDigits :=
  ⟨by decide, digit_le⟩

end Sys2Proof.Machine

namespace Sys2Proof.Machine

/-! # A dispatch without a host operation pending -/

/-- With no host operation pending and nobody of the dispatch able to move, the move is the sequencer's. -/
theorem dispatchMove_noAgents {s : State} {e : Executing} (he : s.executing = some e) (hhost : s.host = [])
    (hnone : dispatchAgents e = []) : dispatchMove e s = completeMove e s := by
  have hagents : enabledAgents s = [.sequencer] := by
    simp [enabledAgents, engineAgents_executing he, hnone, hostReady_nil hhost]
  rw [dispatchMove, hagents]
  rfl

/-- With no host operation pending, what holds after the sequencer's move once nobody of the dispatch can move, and
after the move of each agent that can, whatever the draws before it, holds after the dispatch's next move. -/
theorem dispatchMove_leadsTo {P : State → Prop} {s : State} {e : Executing} (he : s.executing = some e)
    (hhost : s.host = [])
    (hcomplete : dispatchAgents e = [] → ∃ t, completeMove e s = .next t ∧ P t)
    (hagents : ∀ a ∈ dispatchAgents e, ∀ s', DrawsFrom s s' → ∃ t, agentMove e a s' = .next t ∧ P t) :
    ∃ t, dispatchMove e s = .next t ∧ P t := by
  by_cases hnone : dispatchAgents e = []
  · rw [dispatchMove_noAgents he hhost hnone]
    exact hcomplete hnone
  · have hne : enabledAgents s ≠ [] := fun hnil => engineAgents_nonempty he (List.append_eq_nil_iff.1 hnil).1
    obtain ⟨a, s', hpick⟩ := pick_isSome hne s
    obtain ⟨ha, hd⟩ := pick_some hpick
    rw [dispatchMove, hpick]
    rcases mem_enabledAgents he ha with ⟨_, hr⟩ | ⟨_, hnil⟩ | ha
    · simp [hostReady_nil hhost] at hr
    · exact absurd hnil hnone
    · exact hagents a ha s' hd

/-- One move of a run. -/
theorem runMoves_succ {s s' : State} {e : Executing} (he : s.executing = some e) (hmove : dispatchMove e s = .next s')
    (n : Nat) : runMoves (n + 1) s = runMoves n s' := by
  simp [runMoves, he, hmove]

/-- A dispatch without agents ends with the sequencer's one move. -/
theorem runToEnd_noAgents {s t : State} {e : Executing} (he : s.executing = some e) (hhost : s.host = [])
    (hnone : dispatchAgents e = []) (hmove : completeMove e s = .next t) (hend : t.executing = none) :
    runToEnd s = .next t := by
  have hpos := executingWork_pos s.cfg e
  obtain ⟨n, hn⟩ : ∃ n, remainingMoves s = n + 1 :=
    ⟨remainingMoves s - 1, by rw [remainingMoves_executing he]; omega⟩
  rw [runToEnd, hn, runMoves_succ he ((dispatchMove_noAgents he hhost hnone).trans hmove), runMoves_idle hend]

/-! # Legal parameters and sizes -/

/-- The parameters of 00_scope.md R10 give non-empty tiles. -/
theorem tiles_pos {c : Config} (h : c.wf = true) : 0 < c.tileH ∧ 0 < c.tileS := by
  simp only [Config.wf, Config.sizesOk, Bool.and_eq_true, decide_eq_true_eq] at h
  obtain ⟨⟨⟨⟨⟨⟨hhw, hhr⟩, hsw⟩, hsr⟩, _⟩, _⟩, _⟩ := h
  exact ⟨Nat.mul_pos hhw hhr, Nat.mul_pos hsw hsr⟩

theorem sizesLegal_numKeys_le {s : State} (h : sizesLegal s = true) : s.numKeys.toNat ≤ s.paddedSize.toNat := by
  simp only [sizesLegal, Bool.and_eq_true, decide_eq_true_eq] at h
  obtain ⟨⟨⟨hle, _⟩, _⟩, _⟩ := h
  exact hle

/-! # Commands on no elements -/

section NoElements

variable {s : State} (hhost : s.host = []) (hsize : s.paddedSize = 0)
include hhost hsize

/-- HISTOGRAM on no elements has no workgroups: the sequencer completes it at once (41_histogram.md R138). -/
theorem runToEnd_startHistogram_noElements (htile : 0 < s.cfg.tileH) :
    runToEnd (startHistogram s) = .next (histogramDone { s with fresh := s.fresh + 1 }) := by
  have hgrid : histGrid s.cfg s.paddedSize.toNat = 0 := by
    simpa [histGrid, hsize] using Nat.div_eq_of_lt (Nat.sub_lt htile Nat.one_pos)
  have hrun : (startHistogram s).executing
      = some (.histogram { numKeys := s.numKeys.toNat, size := s.paddedSize.toNat, groups := [] }) := by
    simp [startHistogram, hgrid]
  exact runToEnd_noAgents hrun hhost rfl rfl rfl

/-- A scatter on no elements has no workgroups: the sequencer completes it at once (43_scatter.md R202). -/
theorem runToEnd_startScatter_noElements (p : Nat) :
    runToEnd (startScatter p s)
      = .next (if p % 2 = 0 then scatterEvenDone { s with fresh := s.fresh + 1 }
          else scatterOddDone { s with fresh := s.fresh + 1 }) := by
  have hrun : (startScatter p s).executing
      = some (.scatter { pass := p, size := s.paddedSize.toNat, groups := [], failedOlder := [] }) := by
    simp [startScatter, scatterGrid, hsize]
  rw [runToEnd_noAgents (t := if p % 2 = 0 then _ else _) hrun hhost rfl rfl (by split <;> rfl)]
  split <;> rfl

end NoElements

theorem counter_succ_eq_two_iff (v : Word) : v + 1 = 2 ↔ v = 1 := by
  constructor <;> intro h <;> bv_omega

/-- Settles O49: without elements there are no workgroups, and the sequencer's completion is the only move. -/
theorem commandsOnNoElements : Obligations.CommandsOnNoElements := by
  intro s hhost hidle hnum hsize hdisjoint hwf
  have hlegal : sizesLegal s = true := by simp [sizesLegal, hnum, hsize, hdisjoint]
  refine ⟨fun hphase => ?_, fun hphase heq hle => ?_, fun hphase hnext => ?_⟩
  · have hexec : exec .histogram s = runToEnd (startHistogram s) := by
      simp [exec, execHistogram, runCommand, histogramAccepted, hphase, hlegal]
    rw [hexec, runToEnd_startHistogram_noElements hhost hsize (tiles_pos hwf).1, histogramDone, ← hidle]
  · have hexec : exec .scatterEven s = runToEnd (startScatter (evenPassIndex s) s) := by
      simp [exec, execScatterEven, runCommand, scatterEvenAccepted, hphase, heq, heq ▸ hle, hlegal]
    have heven : evenPassIndex s % 2 = 0 := Nat.mul_mod_right 2 _
    rw [hexec, runToEnd_startScatter_noElements hhost hsize, if_pos heven, scatterEvenDone, ← hidle]
  · have hexec : exec .scatterOdd s = runToEnd (startScatter (oddPassIndex s) s) := by
      simp [exec, execScatterOdd, runCommand, scatterOddAccepted, hphase, hnext, hlegal]
    have hodd : ¬ oddPassIndex s % 2 = 0 := by
      rw [oddPassIndex]
      omega
    rw [hexec, runToEnd_startScatter_noElements hhost hsize, if_neg hodd, scatterOddDone, ← hidle]
    simp only [counter_succ_eq_two_iff, hphase]

end Sys2Proof.Machine

namespace Sys2Proof.Machine

/-! # Runs of stores of one word, and of AtomicAdds -/

/-- A word after a run of stores of v to the listed indices. -/
theorem Memory.readWord_writeWords_const {m : Memory} (h : Memory.wf m = true) (is : List Nat) (v : Word) (j : Nat) :
    Memory.readWord (Memory.writeWords m (is.map fun i => (i, v))) j = if j ∈ is then v else Memory.readWord m j := by
  induction is generalizing m with
  | nil => simp [Memory.writeWords]
  | cons i is ih =>
    rw [List.map_cons, Memory.writeWords, ih (Memory.wf_writeWord h i v), Memory.readWord_writeWord h]
    by_cases hmem : j ∈ is <;> by_cases hji : j = i <;> simp [hmem, hji]

/-- An AtomicAdd adds to its word, and leaves every other word alone (20_memory.md R64). -/
theorem readWord_atomicAdd {m : Memory} (h : Memory.wf m = true) (i j : Nat) (v : Word) :
    Memory.readWord (atomicAdd m i v) j = Memory.readWord m j + if j = i then v else 0 := by
  unfold atomicAdd
  split
  · next hv => simp [hv]
  · rw [Memory.readWord_writeWord h]
    split
    · next hji => rw [hji]
    · simp

theorem wf_atomicAdd {m : Memory} (h : Memory.wf m = true) (i : Nat) (v : Word) :
    Memory.wf (atomicAdd m i v) = true := (Memory.StoredAt.atomicAdd (P := fun _ => True) m trivial v).wf h

/-- Rows do not overlap: HIDX(p, d) names its pass and digit. -/
theorem hidx_eq_iff {p q d e : Nat} (hd : d < 256) (he : e < 256) : hidx p d = hidx q e ↔ p = q ∧ d = e := by
  simp only [hidx]
  omega

/-- The AtomicAdds of distinct digits of row p, each adding its own count. -/
theorem readWord_foldl_atomicAdd (p : Nat) (counts : List Word) {q d : Nat} (hd : d < 256) {ds : List Nat}
    (hds : ∀ e ∈ ds, e < 256) (hnodup : ds.Nodup) {m : Memory} (h : Memory.wf m = true) :
    Memory.readWord (ds.foldl (fun m e => atomicAdd m (hidx p e) (arrayAt counts e)) m) (hidx q d)
      = Memory.readWord m (hidx q d) + if q = p ∧ d ∈ ds then arrayAt counts d else 0 := by
  induction ds generalizing m with
  | nil => simp
  | cons e ds ih =>
    obtain ⟨hnotin, hnodup⟩ := List.nodup_cons.1 hnodup
    have hrest := ih (fun x hx => hds x (by simp [hx])) hnodup (wf_atomicAdd h (hidx p e) (arrayAt counts e))
    rw [List.foldl_cons, hrest, readWord_atomicAdd h]
    simp only [hidx_eq_iff hd (hds e (by simp)), List.mem_cons]
    by_cases hq : q = p <;> by_cases hde : d = e <;> simp [hq, hde, hnotin]

/-- One round's AtomicAdds: row p grows by the counts, every other row stays (41_histogram.md R132). -/
theorem readWord_addRow {m : Memory} (h : Memory.wf m = true) (p : Nat) (counts : List Word) (q : Nat) {d : Nat}
    (hd : d < 256) : Memory.readWord (addRow m p counts) (hidx q d)
      = Memory.readWord m (hidx q d) + if q = p then arrayAt counts d else 0 := by
  rw [addRow, readWord_foldl_atomicAdd p counts hd (fun e he => List.mem_range.1 he) List.nodup_range h]
  simp [hd]

/-! # Arrays and sums -/

theorem arrayAt_map_range {f : Nat → Word} {n i : Nat} (h : i < n) : arrayAt ((List.range n).map f) i = f i := by
  simp [arrayAt, h]

/-- A sum over a list with one entry replaced by one that weighs n more. -/
theorem sum_map_set_add {α : Type} (f : α → Nat) {l : List α} {i n : Nat} {a b : α} (h : l[i]? = some a)
    (hadd : f b = f a + n) : ((l.set i b).map f).sum = (l.map f).sum + n := by
  induction l generalizing i with
  | nil => simp at h
  | cons x xs ih =>
    cases i with
    | zero =>
      obtain rfl : x = a := by simpa using h
      simp [hadd, Nat.add_right_comm]
    | succ i =>
      rw [List.set_cons_succ, List.map_cons, List.sum_cons, ih (by simpa using h), ← Nat.add_assoc]
      rfl

theorem sum_zipIdx_set_add {α : Type} (f : α × Nat → Nat) {l : List α} {i n : Nat} {a b : α} (h : l[i]? = some a)
    (hadd : f (b, i) = f (a, i) + n) : ((l.set i b).zipIdx.map f).sum = (l.zipIdx.map f).sum + n := by
  rw [zipIdx_set]
  exact sum_map_set_add f (by simp [h]) hadd

/-- Each element of a list has one of the k values of f: the numbers of elements with each of them sum to the
length. -/
theorem sum_countP_eq_length {α : Type} (f : α → Nat) (k : Nat) {xs : List α} (h : ∀ x ∈ xs, f x < k) :
    ((List.range k).map fun d => xs.countP fun x => f x == d).sum = xs.length := by
  induction xs with
  | nil => simp
  | cons x xs ih =>
    have hone : ((List.range k).map fun d => if (f x == d) = true then 1 else 0).sum = 1 := by
      rw [← List.sum_toFinset _ List.nodup_range]
      simp [h x]
    simp only [List.countP_cons, List.sum_map_add, hone, ih fun y hy => h y (by simp [hy]), List.length_cons]

/-! # The tiles of a histogram -/

theorem length_histTile (c : Config) (size w : Nat) :
    (histTile c size w).length = min c.tileH (size - w * c.tileH) := by simp [histTile]

theorem mem_histTile {c : Config} {size w i : Nat} :
    i ∈ histTile c size w ↔ w * c.tileH ≤ i ∧ i < w * c.tileH + c.tileH ∧ i < size := by
  simp only [histTile, List.mem_map, List.mem_range]
  constructor
  · rintro ⟨o, ho, rfl⟩
    omega
  · rintro ⟨hge, hlt, hsize⟩
    exact ⟨i - w * c.tileH, by omega, by omega⟩

/-- Within HISTOGRAM an index belongs to one tile only (41_histogram.md R134). -/
theorem histTile_unique {c : Config} {size w v i : Nat} (hw : i ∈ histTile c size w) (hv : i ∈ histTile c size v) :
    w = v := by
  obtain ⟨hge, hlt, _⟩ := mem_histTile.1 hw
  obtain ⟨hge', hlt', _⟩ := mem_histTile.1 hv
  rw [← Nat.succ_mul] at hlt hlt'
  have hwv := Nat.lt_of_mul_lt_mul_right (hge.trans_lt hlt')
  have hvw := Nat.lt_of_mul_lt_mul_right (hge'.trans_lt hlt)
  omega

theorem range_flatMap_histTile (c : Config) (size n : Nat) :
    (List.range n).flatMap (histTile c size) = List.range (min (n * c.tileH) size) := by
  induction n with
  | zero => simp
  | succ n ih =>
    rw [List.range_succ, List.flatMap_append, ih, List.flatMap_singleton, Nat.succ_mul]
    by_cases hle : n * c.tileH ≤ size
    · have hsplit : min (n * c.tileH + c.tileH) size = n * c.tileH + min c.tileH (size - n * c.tileH) := by omega
      rw [Nat.min_eq_left hle, hsplit, List.range_add]
      rfl
    · have hempty : histTile c size n = [] := List.eq_nil_of_length_eq_zero (by rw [length_histTile]; omega)
      rw [hempty, List.append_nil, Nat.min_eq_right (by omega), Nat.min_eq_right (by omega)]

/-- G_h tiles hold all of PADDED_SIZE (00_scope.md R11). -/
theorem size_le_histGrid {c : Config} (hpos : 0 < c.tileH) (size : Nat) : size ≤ histGrid c size * c.tileH := by
  have hdiv := Nat.div_add_mod (size + c.tileH - 1) c.tileH
  have hmod := Nat.mod_lt (size + c.tileH - 1) hpos
  rw [Nat.mul_comm] at hdiv
  simp only [histGrid]
  omega

/-- The tiles are the indices below PADDED_SIZE, each once. -/
theorem histGrid_flatMap_histTile {c : Config} (hpos : 0 < c.tileH) (size : Nat) :
    (List.range (histGrid c size)).flatMap (histTile c size) = List.range size := by
  rw [range_flatMap_histTile, Nat.min_eq_right (size_le_histGrid hpos size)]

end Sys2Proof.Machine

namespace Sys2Proof.Machine

/-! # HISTOGRAM under every interleaving

A workgroup owns its tile of KEYS_A, and adds its counts of one pass to HIST in each round. So the keys of a tile are a
matter of its workgroup's phase, and every HIST word is what it was plus the counts of the rounds that are over
(41_histogram.md R130 to R134). -/

/-! ## The moves of a workgroup -/

theorem loadWord_setMem_same (s : State) (sp : Space) (m : Memory) (i : Nat) :
    loadWord (setMem s sp m) sp i = Memory.readWord m i := by
  rw [loadWord, memOf_setMem_same]

theorem loadWord_setMem_other (s : State) {sp sp' : Space} (m : Memory) (h : sp' ≠ sp) (i : Nat) :
    loadWord (setMem s sp m) sp' i = loadWord s sp' i := by
  rw [loadWord, memOf_setMem_other s m h, loadWord]

/-- The count rounds that a workgroup has behind it (41_histogram.md R132). -/
def HistGroup.rounds (g : HistGroup) : Nat :=
  match g.phase with
  | .load => 0
  | .count r => r.val
  | .done => 4

theorem HistGroup.rounds_load {g : HistGroup} (h : g.phase = .load) : g.rounds = 0 := by simp [rounds, h]

theorem HistGroup.rounds_count {g : HistGroup} {r : Fin 4} (h : g.phase = .count r) : g.rounds = r.val := by
  simp [rounds, h]

theorem HistGroup.rounds_done {g : HistGroup} (h : g.phase = .done) : g.rounds = 4 := by simp [rounds, h]

/-- The phase of a workgroup after round r. -/
def nextRound (r : Fin 4) : HistPhase := if r = 3 then .done else .count (r + 1)

theorem nextRound_ne_load (r : Fin 4) : nextRound r ≠ .load := by revert r; decide

theorem rounds_nextRound {g : HistGroup} {r : Fin 4} (h : g.phase = nextRound r) : g.rounds = r.val + 1 := by
  have hall : ∀ r : Fin 4, (nextRound r = .done ∧ r.val + 1 = 4)
      ∨ ∃ r', nextRound r = .count r' ∧ r.val + 1 = r'.val := by decide
  obtain ⟨hdone, hval⟩ | ⟨r', hcount, hval⟩ := hall r
  · rw [HistGroup.rounds_done (h.trans hdone), hval]
  · rw [HistGroup.rounds_count (h.trans hcount), hval]

section Moves

variable {run : HistRun} {w : Nat} {g : HistGroup} {s : State}

theorem histGroupMove_load (hph : g.phase = .load)
    (hin : ∀ i ∈ histTile s.cfg run.size w, i < spaceWords s.cfg .keysA) :
    histGroupMove run w g s = .next (setHistGroup (storeWords s .keysA (histPadding s.cfg run w)) run w
      { g with phase := .count 0, kv := histLoadKeys s run w g.kv }) := by
  simp only [histGroupMove, hph, guardSpace_inside hin]

theorem histGroupMove_count {r : Fin 4} (hph : g.phase = .count r) :
    histGroupMove run w g s
      = .next (setHistGroup
          (setMem s .hist (addRow s.hist r.val (histCounts (histTileKeys s.cfg run.size w g.kv) r.val))) run w
          { g with phase := nextRound r, acc := histCounts (histTileKeys s.cfg run.size w g.kv) r.val }) := by
  have hin : ∀ i ∈ (List.range 256).map (hidx r.val), i < spaceWords s.cfg .hist := by
    intro i hi
    obtain ⟨d, hd, rfl⟩ := List.mem_map.1 hi
    exact hidx_inside s.cfg r.isLt (List.mem_range.1 hd)
  simp only [histGroupMove, hph, guardSpace_inside hin]
  rfl

/-- KEYS_A after LOAD: SENTINEL at the padding indices of the tile, every other word as it was (R131). -/
theorem loadWord_histPadding (hwf : Memory.wf s.keysA = true) (i : Nat) :
    loadWord (storeWords s .keysA (histPadding s.cfg run w)) .keysA i
      = if i ∈ histTile s.cfg run.size w ∧ run.numKeys ≤ i then Config.sentinel else loadWord s .keysA i := by
  refine (Memory.readWord_writeWords_const hwf ((histTile s.cfg run.size w).filter fun i => run.numKeys ≤ i)
    Config.sentinel i).trans ?_
  simp only [List.mem_filter, decide_eq_true_eq]
  rfl

/-- What a workgroup counts after LOAD: its tile's keys, SENTINEL at the padding indices (R131). -/
theorem histTileKeys_histLoadKeys (kv : List Word) :
    histTileKeys s.cfg run.size w (histLoadKeys s run w kv)
      = (histTile s.cfg run.size w).map fun i => if i < run.numKeys then loadWord s .keysA i else Config.sentinel := by
  rw [histTileKeys, length_histTile, histTile, List.map_map]
  refine List.map_congr_left fun o ho => ?_
  have ho : o < min s.cfg.tileH (run.size - w * s.cfg.tileH) := List.mem_range.1 ho
  have hlt : o < s.cfg.tileH := by omega
  have hsize : w * s.cfg.tileH + o < run.size := by omega
  rw [histLoadKeys, arrayAt_map_range hlt]
  simp [hsize]

end Moves

/-! ## The middle of a dispatch -/

/-- The number of keys of tile w with digit d in pass p, padding counted as SENTINEL (41_histogram.md R132, R133). -/
def tileCount (s : State) (w p d : Nat) : Nat :=
  (histTile s.cfg s.paddedSize.toNat w).countP fun i => (digit (paddedKey s i) p).toNat == d

/-- What workgroup w has added to HIST[HIDX(p, d)]: its tile's count, once round p is over. -/
def addedBy (s : State) (p d : Nat) (x : HistGroup × Nat) : Nat :=
  if p < x.1.rounds then tileCount s x.2 p d else 0

/-- u is s but for what HISTOGRAM writes: the padding keys, the HIST rows, and the dispatch with its draws. -/
structure HistFrame (s u : State) : Prop where
  fields : u = { s with keysA := u.keysA, hist := u.hist, executing := u.executing, sched := u.sched, fresh := u.fresh }
  keysA : Memory.StoredAt (fun i => s.numKeys.toNat ≤ i ∧ i < s.paddedSize.toNat) s.keysA u.keysA
  hist : Memory.StoredAt (fun i => i < 1024) s.hist u.hist

theorem HistFrame.sameRegisters {s u : State} (h : HistFrame s u) : SameRegisters s u := by
  rw [h.fields]
  exact ⟨⟨rfl, rfl, rfl, rfl, rfl, rfl⟩, rfl, rfl, rfl, rfl⟩

theorem HistFrame.trans {s u v : State} (h : HistFrame s u) (h' : HistFrame u v) : HistFrame s v where
  fields := by
    have hv := h'.fields
    rw [h.fields] at hv
    exact hv
  keysA := h.keysA.trans (h.sameRegisters.numKeys ▸ h.sameRegisters.paddedSize ▸ h'.keysA)
  hist := h.hist.trans h'.hist

theorem DrawsFrom.histFrame {s u : State} (h : DrawsFrom s u) : HistFrame s u where
  fields := by
    unfold DrawsFrom at h
    rw [h]
  keysA := by
    have hmem : u.keysA = s.keysA := h.memOf .keysA
    exact hmem ▸ .refl _ _
  hist := h.hist ▸ .refl _ _

theorem histFrame_setMem_keysA (s : State) {m : Memory}
    (h : Memory.StoredAt (fun i => s.numKeys.toNat ≤ i ∧ i < s.paddedSize.toNat) s.keysA m) :
    HistFrame s (setMem s .keysA m) := ⟨rfl, h, .refl _ _⟩

theorem histFrame_setMem_hist (s : State) {m : Memory} (h : Memory.StoredAt (fun i => i < 1024) s.hist m) :
    HistFrame s (setMem s .hist m) := ⟨rfl, .refl _ _, h⟩

theorem histFrame_setHistGroup (s : State) (run : HistRun) (w : Nat) (g : HistGroup) :
    HistFrame s (setHistGroup s run w g) := ⟨rfl, .refl _ _, .refl _ _⟩

/-- Workgroup w of the dispatch of s: before LOAD its tile of KEYS_A is as it was; from LOAD on the tile holds the
padded keys, and these are the keys it counts. -/
structure HistGroupShape (s u : State) (w : Nat) (g : HistGroup) : Prop where
  keys : ∀ i ∈ histTile s.cfg s.paddedSize.toNat w,
    loadWord u .keysA i = if g.phase = .load then loadWord s .keysA i else paddedKey s i
  loaded : g.phase ≠ .load → histTileKeys s.cfg s.paddedSize.toNat w g.kv
    = (histTile s.cfg s.paddedSize.toNat w).map (paddedKey s)

/-- u is a state in the middle of the HISTOGRAM that s starts. -/
structure HistRunning (s u : State) (run : HistRun) : Prop where
  frame : HistFrame s u
  executing : u.executing = some (.histogram run)
  numKeys : run.numKeys = s.numKeys.toNat
  size : run.size = s.paddedSize.toNat
  groups : run.groups.length = histGrid s.cfg s.paddedSize.toNat
  shape : ∀ w g, run.groups[w]? = some g → HistGroupShape s u w g
  rows : ∀ p < 4, ∀ d < 256, loadWord u .hist (hidx p d)
    = loadWord s .hist (hidx p d) + BitVec.ofNat 32 (run.groups.zipIdx.map (addedBy s p d)).sum

theorem startHistogram_running (s : State) : HistRunning s (startHistogram s)
    { numKeys := s.numKeys.toNat, size := s.paddedSize.toNat,
      groups := (List.range (histGrid s.cfg s.paddedSize.toNat)).map (histGroupStart s) } := by
  have hload : ∀ g ∈ (List.range (histGrid s.cfg s.paddedSize.toNat)).map (histGroupStart s), g.phase = .load := by
    intro g hg
    obtain ⟨w, _, rfl⟩ := List.mem_map.1 hg
    rfl
  refine ⟨⟨rfl, .refl _ _, .refl _ _⟩, rfl, rfl, rfl, by simp, fun w g hg => ?_, fun p _ d _ => ?_⟩
  · have hph := hload g (List.mem_of_getElem? hg)
    exact ⟨fun i _ => (if_pos hph).symm, fun hne => absurd hph hne⟩
  · rw [List.sum_eq_zero]
    · exact (BitVec.add_zero _).symm
    · intro n hn
      obtain ⟨x, hx, rfl⟩ := List.mem_map.1 hn
      have hph := hload x.1 (List.mem_of_getElem? (List.mem_zipIdx_iff_getElem?.1 hx))
      simp [addedBy, HistGroup.rounds_load hph]

theorem HistRunning.after_draws {s u v : State} {run : HistRun} (h : HistRunning s u run) (hd : DrawsFrom u v) :
    HistRunning s v run := by
  have hload : ∀ sp i, loadWord v sp i = loadWord u sp i := fun sp i => by simp only [loadWord, hd.memOf sp]
  exact {
    frame := h.frame.trans hd.histFrame
    executing := hd.executing.trans h.executing
    numKeys := h.numKeys
    size := h.size
    groups := h.groups
    shape := fun w g hg =>
      ⟨fun i hi => (hload _ _).trans ((h.shape w g hg).keys i hi), (h.shape w g hg).loaded⟩
    rows := fun p hp d hlt => (hload _ _).trans (h.rows p hp d hlt) }

/-- A workgroup's move, when it writes KEYS_A in its own tile only and adds to HIST what it has more behind it. -/
theorem HistRunning.setGroup {s u v : State} {run : HistRun} {w : Nat} {g g' : HistGroup} {added : Nat → Nat → Nat}
    (h : HistRunning s u run) (hg : run.groups[w]? = some g) (hframe : HistFrame u v)
    (hother : ∀ i, i ∉ histTile s.cfg s.paddedSize.toNat w → loadWord v .keysA i = loadWord u .keysA i)
    (hshape : HistGroupShape s v w g')
    (hrows : ∀ p, ∀ d < 256, loadWord v .hist (hidx p d) = loadWord u .hist (hidx p d) + BitVec.ofNat 32 (added p d))
    (hadded : ∀ p d, addedBy s p d (g', w) = addedBy s p d (g, w) + added p d) :
    HistRunning s (setHistGroup v run w g') { run with groups := run.groups.set w g' } where
  frame := (h.frame.trans hframe).trans (histFrame_setHistGroup v run w g')
  executing := rfl
  numKeys := h.numKeys
  size := h.size
  groups := by simpa using h.groups
  shape := by
    intro x g₁ hx
    rw [List.getElem?_set] at hx
    split at hx
    · next heq =>
      obtain ⟨_, rfl⟩ : _ ∧ g' = g₁ := by simpa using hx
      subst heq
      exact ⟨hshape.keys, hshape.loaded⟩
    · next hne =>
      obtain ⟨hkeys, hloaded⟩ := h.shape x g₁ hx
      exact ⟨fun i hi => (hother i fun hw => hne (histTile_unique hw hi)).trans (hkeys i hi), hloaded⟩
  rows := by
    intro p hp d hd
    rw [sum_zipIdx_set_add (addedBy s p d) hg (hadded p d), BitVec.ofNat_add, ← BitVec.add_assoc, ← h.rows p hp d hd]
    exact hrows p d hd

section Steps

variable {s u : State} {run : HistRun} {w : Nat} {g : HistGroup} (h : HistRunning s u run) (hmem : s.memOk = true)
  (hg : run.groups[w]? = some g)
include h hmem hg

/-- LOAD goes through, fills the tile's padding, and leaves the workgroup with the padded keys (R131). -/
theorem HistRunning.load (hcap : s.paddedSize.toNat ≤ s.cfg.cap) (hph : g.phase = .load) :
    ∃ t, histGroupMove run w g u = .next t ∧ ∃ run', HistRunning s t run' := by
  have hregs := h.frame.sameRegisters
  have hwf : Memory.wf u.keysA = true := h.frame.keysA.wf ((memOk_iff s).1 hmem .keysA).1
  have htile : histTile u.cfg run.size w = histTile s.cfg s.paddedSize.toNat w := by rw [hregs.cfg, h.size]
  have hin : ∀ i ∈ histTile u.cfg run.size w, i < spaceWords u.cfg .keysA := by
    intro i hi
    obtain ⟨_, _, hlt⟩ := mem_histTile.1 (htile ▸ hi)
    rw [hregs.cfg]
    exact hlt.trans_le hcap
  have hloads := loadWord_histPadding (run := run) (w := w) hwf
  rw [htile, h.numKeys] at hloads
  have hold : ∀ i ∈ histTile s.cfg s.paddedSize.toNat w, loadWord u .keysA i = loadWord s .keysA i :=
    fun i hi => ((h.shape w g hg).keys i hi).trans (if_pos hph)
  refine ⟨_, histGroupMove_load hph hin, _, h.setGroup (added := fun _ _ => 0) hg ?frame ?other ?shape ?rows ?added⟩
  case frame =>
    refine histFrame_setMem_keysA u ⟨_, fun x hx => ?_, rfl⟩
    obtain ⟨i, hi, rfl⟩ := List.mem_map.1 hx
    obtain ⟨hi, hpad⟩ := List.mem_filter.1 hi
    obtain ⟨_, _, hlt⟩ := mem_histTile.1 (htile ▸ hi)
    rw [hregs.numKeys, hregs.paddedSize, ← h.numKeys]
    exact ⟨by simpa using hpad, hlt⟩
  case other => exact fun i hi => (hloads i).trans (if_neg fun hpad => hi hpad.1)
  case shape =>
    refine ⟨fun i hi => ?_, fun _ => ?_⟩
    · refine (hloads i).trans ?_
      rw [hold i hi]
      by_cases hlive : i < s.numKeys.toNat
      · simp [paddedKey, hlive, Nat.not_le.2 hlive]
      · simp [paddedKey, hlive, hi, Nat.le_of_not_lt hlive]
    · have hkeys := histTileKeys_histLoadKeys (s := u) (run := run) (w := w) g.kv
      rw [htile, hregs.cfg, h.size, h.numKeys] at hkeys
      exact hkeys.trans (List.map_congr_left fun i hi => by rw [hold i hi, paddedKey])
  case rows => exact fun p d _ => (BitVec.add_zero _).symm
  case added => simp [addedBy, hph, HistGroup.rounds]

/-- A count round goes through, and adds the tile's counts of its pass to HIST (R132). -/
theorem HistRunning.count {r : Fin 4} (hph : g.phase = .count r) :
    ∃ t, histGroupMove run w g u = .next t ∧ ∃ run', HistRunning s t run' := by
  have hregs := h.frame.sameRegisters
  have hwf : Memory.wf u.hist = true := h.frame.hist.wf ((memOk_iff s).1 hmem .hist).1
  obtain ⟨hkeys, hloaded⟩ := h.shape w g hg
  have hne : g.phase ≠ .load := by simp [hph]
  have hcounts : ∀ d < 256, arrayAt (histCounts (histTileKeys u.cfg run.size w g.kv) r.val) d
      = BitVec.ofNat 32 (tileCount s w r.val d) := by
    intro d hd
    rw [hregs.cfg, h.size, hloaded hne, histCounts, arrayAt_map_range hd, digitCount, List.countP_map]
    rfl
  refine ⟨_, histGroupMove_count hph, _, h.setGroup
    (added := fun p d => if p = r.val then tileCount s w p d else 0) hg ?frame ?other ?shape ?rows ?added⟩
  case frame =>
    refine histFrame_setMem_hist u (storedAt_addRow _ _ fun d hd => ?_)
    simp only [hidx]
    omega
  case other => exact fun i _ => loadWord_setMem_other u _ (by decide) i
  case shape =>
    refine ⟨fun i hi => ?_, fun _ => hloaded hne⟩
    rw [if_neg (nextRound_ne_load r), loadWord_setMem_other u _ (by decide), hkeys i hi, if_neg hne]
  case rows =>
    intro p d hd
    rw [loadWord_setMem_same, readWord_addRow hwf r.val _ p hd, hcounts d hd]
    by_cases hp : p = r.val
    · rw [if_pos hp, if_pos hp, hp]
      rfl
    · rw [if_neg hp, if_neg hp]
      rfl
  case added =>
    intro p d
    simp only [addedBy, HistGroup.rounds_count hph,
      rounds_nextRound (g := { g with phase := nextRound r, acc := _ }) rfl]
    rcases Nat.lt_trichotomy p r.val with hlt | rfl | hgt
    · simp [hlt, hlt.ne, Nat.lt_succ_of_lt hlt]
    · simp
    · simp [hgt.ne', Nat.not_lt.2 hgt.le, Nat.not_lt.2 (Nat.succ_le_of_lt hgt)]

/-- Every move of a workgroup goes through, and leads to a state in the middle of the dispatch again. -/
theorem HistRunning.groupMove (hcap : s.paddedSize.toNat ≤ s.cfg.cap) (hph : g.phase ≠ .done) :
    ∃ t, histGroupMove run w g u = .next t ∧ ∃ run', HistRunning s t run' := by
  cases hphase : g.phase with
  | load => exact h.load hmem hg hcap hphase
  | count r => exact h.count hmem hg hphase
  | done => exact absurd hphase hph

end Steps

/-! ## The dispatch as a whole -/

/-- A state that the HISTOGRAM of s can reach: in the middle, or completed once every workgroup is done. -/
inductive HistReach (s : State) : State → Prop where
  | running (u : State) (run : HistRun) (middle : HistRunning s u run) : HistReach s u
  | ended (u : State) (run : HistRun) (last : HistRunning s u run) (done : ∀ g ∈ run.groups, g.phase = .done) :
      HistReach s (histogramDone u)

/-- A HISTOGRAM of legal size always has a move, which leads to a state it can reach. -/
theorem HistReach.dispatchMove {s u : State} {e : Executing} (h : HistReach s u) (hmem : s.memOk = true)
    (hcap : s.paddedSize.toNat ≤ s.cfg.cap) (hhost : s.host = []) (he : u.executing = some e) :
    ∃ t, Machine.dispatchMove e u = .next t ∧ HistReach s t := by
  cases h with
  | ended u run last => simp at he
  | running _ run middle =>
    obtain rfl := Option.some.inj (middle.executing.symm.trans he)
    refine dispatchMove_leadsTo he (middle.frame.sameRegisters.host.trans hhost) (fun hnone => ?_) fun a ha u' hd => ?_
    · exact ⟨_, rfl, .ended _ _ middle (dispatchAgents_histogram_eq_nil.1 hnone)⟩
    · obtain ⟨w, g, rfl, hg, hph⟩ := mem_dispatchAgents_histogram ha
      obtain ⟨t, hmove, _, ht⟩ := (middle.after_draws hd).groupMove hmem hg hcap hph
      refine ⟨t, ?_, .running _ _ ht⟩
      simpa only [agentMove, groupMove, hg] using hmove

/-- A HISTOGRAM of legal size runs until every workgroup is done, and completes. -/
theorem histogram_ends {s : State} (hmem : s.memOk = true) (hcap : s.paddedSize.toNat ≤ s.cfg.cap)
    (hhost : s.host = []) : ∃ u run, runToEnd (startHistogram s) = .next (histogramDone u)
      ∧ HistRunning s u run ∧ ∀ g ∈ run.groups, g.phase = .done := by
  obtain ⟨t, hrun, ht⟩ := runMoves_total (P := HistReach s)
    (fun u e hu he => hu.dispatchMove hmem hcap hhost he) (remainingMoves (startHistogram s))
    (.running _ _ (startHistogram_running s))
  cases ht with
  | running _ _ middle =>
    have hend := runToEnd_ends hrun
    simp [middle.executing] at hend
  | ended _ _ last done => exact ⟨_, _, hrun, last, done⟩

section Ended

variable {s u : State} {run : HistRun} (h : HistRunning s u run) (hdone : ∀ g ∈ run.groups, g.phase = .done)
  (htile : 0 < s.cfg.tileH)
include h hdone htile

/-- Once every workgroup is done, every key is padded. -/
theorem HistRunning.keys_of_done {i : Nat} (hi : i < s.paddedSize.toNat) : loadWord u .keysA i = paddedKey s i := by
  rw [← List.mem_range, ← histGrid_flatMap_histTile htile, List.mem_flatMap] at hi
  obtain ⟨w, hw, hi⟩ := hi
  have hlt : w < run.groups.length := by simpa [h.groups] using hw
  have hne : run.groups[w].phase ≠ .load := by simp [hdone _ (List.getElem_mem hlt)]
  exact ((h.shape w _ (List.getElem?_eq_getElem hlt)).keys i hi).trans (if_neg hne)

/-- Once every workgroup is done, the tiles' counts are the counts of all keys (41_histogram.md R134). -/
theorem HistRunning.added_of_done {p : Nat} (hp : p < 4) (d : Nat) :
    (run.groups.zipIdx.map (addedBy s p d)).sum = countDigit (paddedKey s) p s.paddedSize.toNat d := by
  have hall : ∀ x ∈ run.groups.zipIdx, addedBy s p d x = tileCount s x.2 p d := by
    intro x hx
    have hx := hdone x.1 (List.mem_of_getElem? (List.mem_zipIdx_iff_getElem?.1 hx))
    simp [addedBy, HistGroup.rounds_done hx, hp]
  have hindices : run.groups.zipIdx.map Prod.snd = List.range (histGrid s.cfg s.paddedSize.toNat) := by
    rw [List.zipIdx_map_snd, h.groups, List.range_eq_range']
  calc (run.groups.zipIdx.map (addedBy s p d)).sum
      = ((run.groups.zipIdx.map Prod.snd).map fun w => tileCount s w p d).sum := by
        rw [List.map_congr_left hall, List.map_map]
        rfl
    _ = ((List.range (histGrid s.cfg s.paddedSize.toNat)).flatMap (histTile s.cfg s.paddedSize.toNat)).countP
          (fun i => (digit (paddedKey s i) p).toNat == d) := by
        rw [hindices, List.countP_flatMap]
        rfl
    _ = countDigit (paddedKey s) p s.paddedSize.toNat d := by
        rw [histGrid_flatMap_histTile htile]
        rfl

end Ended

theorem exec_histogram_zeroed {s : State} (hphase : s.phase = .zeroed) (hlegal : sizesLegal s = true) :
    exec .histogram s = runToEnd (startHistogram s) := by
  simp [exec, execHistogram, runCommand, histogramAccepted, hphase, hlegal]

/-- Settles O36: the words at the end of the dispatch are those of the invariant of its middle, HistRunning, with every
round of every workgroup over. -/
theorem histogramCountsEveryDigit : Obligations.HistogramCountsEveryDigit := by
  intro s hwf hhost hidle hphase hlegal hmem
  have htile := (tiles_pos hwf).1
  have hmemWf := (memOk_iff s).1 hmem
  obtain ⟨u, run, hrun, hlast, hdone⟩ := histogram_ends hmem (sizesLegal_le_cap hlegal) hhost
  refine ⟨histogramDone u, (exec_histogram_zeroed hphase hlegal).trans hrun, ?_, fun i hi => ?_, ?_,
    fun p hp d hd => ?_, ?_⟩
  · have hfields := hlast.frame.fields
    rw [histogramDone, ← hidle]
    exact congrArg (fun v : State => { v with phase := .histogrammed, executing := s.executing }) hfields
  · exact hlast.keys_of_done hdone htile hi
  · exact fun a ha => hlast.frame.keysA.readByte (hmemWf .keysA).1 fun i hi => by omega
  · rw [← hlast.added_of_done hdone htile hp d]
    exact hlast.rows p hp d hd
  · exact fun a ha => hlast.frame.hist.readByte (hmemWf .hist).1 fun i hi => by omega

end Sys2Proof.Machine

namespace Sys2Proof.Machine

/-! # ZERO before HISTOGRAM: the sums of the rows -/

/-! ## Counts of digits -/

/-- Every element has one digit in a pass: the counts of all 256 digits sum to the number of elements. -/
theorem sum_countDigit (key : Nat → Word) (p n : Nat) :
    ((List.range 256).map fun d => countDigit key p n d).sum = n := by
  have hlt : ∀ i ∈ List.range n, (digit (key i) p).toNat < 256 := fun i _ => Nat.lt_succ_of_le (digit_le (key i) p)
  exact (sum_countP_eq_length (fun i => (digit (key i) p).toNat) 256 hlt).trans List.length_range

theorem countDigit_le (key : Nat → Word) (p n d : Nat) : countDigit key p n d ≤ n :=
  List.countP_le_length.trans_eq List.length_range

/-- Padding has the digit 255 in every pass (40_digit_extractor.md R122, 41_histogram.md R133). -/
theorem padding_le_countDigit (s : State) {p : Nat} (hp : p < 4) {n : Nat} (hn : s.numKeys.toNat ≤ n) :
    n - s.numKeys.toNat ≤ countDigit (paddedKey s) p n 255 := by
  obtain ⟨k, rfl⟩ := Nat.exists_eq_add_of_le hn
  have hsentinel : (digit Config.sentinel p).toNat = 255 := by
    rw [sentinelHasTheLargestDigits.1 p hp]
    rfl
  have hall : ((List.range k).map (s.numKeys.toNat + ·)).countP
      (fun i => (digit (paddedKey s i) p).toNat == 255) = k := by
    refine (List.countP_eq_length.2 fun i hi => ?_).trans (by simp)
    obtain ⟨o, _, rfl⟩ := List.mem_map.1 hi
    simp [paddedKey, hsentinel]
  rw [countDigit, List.range_add, List.countP_append, hall]
  omega

/-! ## What ZERO leaves -/

/-- The state after a ZERO of legal sizes: HIST cleared as far as the sort uses it, the flags cleared, PHASE 1
(44_orchestrator.md R221). -/
def zeroed (s : State) : State := zeroDone (zeroClear (startZero s) s.paddedSize.toNat)

theorem sortHistWords_le {c : Config} {size : Nat} (h : size ≤ c.cap) : sortHistWords c size ≤ spaceWords c .hist := by
  have hgrid : scatterGrid c size ≤ c.pMax := Nat.div_le_div_right h
  simp only [sortHistWords, spaceWords]
  omega

/-- ZERO is two moves of the sequencer: its stores, and its completion. -/
theorem runToEnd_startZero {s : State} (hhost : s.host = []) (hcap : s.paddedSize.toNat ≤ s.cfg.cap) :
    runToEnd (startZero s) = .next (zeroed s) := by
  have hclear : completeMove (.zero s.paddedSize.toNat false) (startZero s)
      = .next (zeroClear (startZero s) s.paddedSize.toNat) :=
    guardSpace_inside fun i hi => (List.mem_range.1 hi).trans_le (sortHistWords_le hcap)
  have hwork : remainingMoves (startZero s) = 2 := by
    simp [remainingMoves_executing (startZero_executing s), executingWork, hhost]
  have hfirst := (dispatchMove_noAgents (startZero_executing s) hhost rfl).trans hclear
  have hsecond : dispatchMove (.zero s.paddedSize.toNat true) (zeroClear (startZero s) s.paddedSize.toNat)
      = .next (zeroed s) := dispatchMove_noAgents rfl hhost rfl
  rw [runToEnd, hwork, runMoves_succ (startZero_executing s) hfirst, runMoves_succ rfl hsecond, runMoves]

/-- ZERO answers a next state only from legal sizes. -/
theorem exec_zero_next {s t : State} (hhost : s.host = []) (h : exec .zero s = .next t) :
    sizesLegal s = true ∧ t = zeroed s := by
  rcases runCommand_next (acc := true) (start := startZero) h with ⟨hacc, _⟩ | ⟨_, hlegal, hrun⟩
  · simp at hacc
  · rw [runToEnd_startZero hhost (sizesLegal_le_cap hlegal)] at hrun
    exact ⟨hlegal, (Host.Outcome.next.inj hrun).symm⟩

theorem zeroed_memOk {s : State} (hcap : s.paddedSize.toNat ≤ s.cfg.cap) (hmem : s.memOk = true) :
    (zeroed s).memOk = true := by
  have hclear : Completion (startZero s) (.zero s.paddedSize.toNat false)
      (zeroClear (startZero s) s.paddedSize.toNat) :=
    .clear _ fun i hi => hi.trans_le (sortHistWords_le hcap)
  exact hclear.memory.memOk rfl hmem

/-- ZERO leaves every row of HIST at 0. -/
theorem loadWord_zeroed {s : State} (hmem : s.memOk = true) {p d : Nat} (hp : p < 4) (hd : d < 256) :
    loadWord (zeroed s) .hist (hidx p d) = 0 := by
  have hwf : Memory.wf s.hist = true := ((memOk_iff s).1 hmem .hist).1
  have hin : hidx p d ∈ List.range (sortHistWords s.cfg s.paddedSize.toNat) := by
    simp only [List.mem_range, sortHistWords, hidx]
    omega
  exact (Memory.readWord_writeWords_const hwf _ 0 _).trans (if_pos hin)

/-! ## The rows after both -/

theorem execAll_cons_next {i : Instr} {is : List Instr} {s t : State} (h : execAll (i :: is) s = .next t) :
    ∃ u, exec i s = .next u ∧ execAll is u = .next t := by
  rw [execAll] at h
  split at h
  · next u hu => exact ⟨u, hu, h⟩
  · simp at h
  · simp at h

/-- After ZERO and HISTOGRAM the HIST rows hold the counts of the padded keys' digits. -/
theorem loadWord_zero_histogram {s t : State} (hwf : s.cfg.wf = true) (hhost : s.host = []) (hmem : s.memOk = true)
    (h : execAll [.zero, .histogram] s = .next t) :
    sizesLegal s = true ∧ ∀ p < 4, ∀ d < 256,
      (loadWord t .hist (hidx p d)).toNat = countDigit (paddedKey s) p s.paddedSize.toNat d := by
  obtain ⟨u, hzero, h⟩ := execAll_cons_next h
  obtain ⟨v, hhistogram, h⟩ := execAll_cons_next h
  obtain rfl := Host.Outcome.next.inj h
  obtain ⟨hlegal, rfl⟩ := exec_zero_next hhost hzero
  refine ⟨hlegal, fun p hp d hd => ?_⟩
  obtain ⟨t, hrun, _, _, _, hrows, _⟩ := histogramCountsEveryDigit (zeroed s) hwf hhost rfl rfl hlegal
    (zeroed_memOk (sizesLegal_le_cap hlegal) hmem)
  obtain rfl := Host.Outcome.next.inj (hrun.symm.trans hhistogram)
  have hlt : countDigit (paddedKey s) p s.paddedSize.toNat d < 2 ^ 32 :=
    (countDigit_le _ _ _ _).trans_lt s.paddedSize.isLt
  rw [hrows p hp d hd, loadWord_zeroed hmem hp hd, zero_add]
  exact (BitVec.toNat_ofNat _ _).trans (Nat.mod_eq_of_lt hlt)

/-- Settles O37: the rows hold the counts of the digits, which sum to the size, and padding has the digit 255. -/
theorem histogramRowsSumToTheSize : Obligations.HistogramRowsSumToTheSize := by
  intro s t hwf hhost _ hmem h p hp
  obtain ⟨hlegal, hrows⟩ := loadWord_zero_histogram hwf hhost hmem h
  constructor
  · rw [List.map_congr_left fun d hd => hrows p hp d (List.mem_range.1 hd), sum_countDigit]
  · rw [hrows p hp 255 (by omega)]
    exact padding_le_countDigit s hp (sizesLegal_numKeys_le hlegal)

end Sys2Proof.Machine

namespace Sys2Proof.Machine

/-! # The Blelloch scan

A block of level k is 2^k words of the array that end at a position i with i + 1 divisible by 2^k. The end of a block of
level j that ends no block of level j + 1 gets its block's sum in the up-sweep, and keeps it until level j of the
down-sweep. The ends of the blocks of the level that a sweep is at hold their block's sum on the way up, and on the way
down the sum of all words before their block (42_prefix.md R152, R153). -/

/-! ## Sums of the first words -/

/-- The sum of the first d words of x. -/
def sumBefore (x : List Word) (d : Nat) : Word := sumWords (x.take d)

theorem arrayAt_eq_getElem {xs : List Word} {i : Nat} (h : i < xs.length) : arrayAt xs i = xs[i] := by simp [arrayAt, h]

theorem arrayAt_exclusiveSums {x : List Word} {d : Nat} (h : d < x.length) :
    arrayAt (exclusiveSums x) d = sumBefore x d := arrayAt_map_range h

theorem sumBefore_zero (x : List Word) : sumBefore x 0 = 0 := rfl

theorem sumBefore_succ {x : List Word} {d : Nat} (h : d < x.length) :
    sumBefore x (d + 1) = sumBefore x d + arrayAt x d := by
  rw [sumBefore, List.take_succ_eq_append_getElem h, sumWords, List.foldl_append]
  rw [arrayAt_eq_getElem h]
  rfl

/-- The sum of the 2^k words of x that end at position i. -/
def blockSum (x : List Word) (k i : Nat) : Word := sumBefore x (i + 1) - sumBefore x (i + 1 - 2 ^ k)

/-- Two blocks that meet make one of the next level. -/
theorem blockSum_add (x : List Word) {k i : Nat} (h : 2 ^ k ≤ i) :
    blockSum x k i + blockSum x k (i - 2 ^ k) = blockSum x (k + 1) i := by
  have hmiddle : i - 2 ^ k + 1 = i + 1 - 2 ^ k := by omega
  have hstart : i + 1 - 2 ^ k - 2 ^ k = i + 1 - 2 ^ (k + 1) := by omega
  simp only [blockSum, hmiddle, hstart]
  ring

/-- The words before a block and the block are the words up to its end. -/
theorem sumBefore_add_blockSum (x : List Word) (k i : Nat) :
    sumBefore x (i + 1 - 2 ^ k) + blockSum x k i = sumBefore x (i + 1) := by
  rw [blockSum, add_sub_cancel]

/-! ## The ends of blocks -/

theorem two_pow_succ_dvd_mul {k c : Nat} : 2 ^ (k + 1) ∣ 2 ^ k * c ↔ 2 ∣ c := by
  rw [pow_succ, Nat.mul_dvd_mul_iff_left (Nat.two_pow_pos k)]

/-- A block of level k + 1 is two of level k: its end ends the right one, and the left one ends 2^k positions before. -/
theorem leftEnd_of_end {k i : Nat} (h : 2 ^ (k + 1) ∣ i + 1) :
    2 ^ k ∣ i + 1 ∧ 2 ^ k ≤ i ∧ 2 ^ k ∣ i - 2 ^ k + 1 ∧ ¬ 2 ^ (k + 1) ∣ i - 2 ^ k + 1 := by
  obtain ⟨c, hc⟩ := h
  have hpos := Nat.two_pow_pos k
  have hle : 2 ^ (k + 1) ≤ i + 1 := Nat.le_of_dvd i.succ_pos ⟨c, hc⟩
  rw [pow_succ] at hle
  rw [pow_succ, Nat.mul_assoc] at hc
  have hleft : i - 2 ^ k + 1 = 2 ^ k * (2 * c - 1) := by
    rw [Nat.mul_sub, ← hc]
    omega
  refine ⟨⟨_, hc⟩, by omega, ⟨_, hleft⟩, ?_⟩
  rw [hleft, two_pow_succ_dvd_mul]
  have : c ≠ 0 := by
    rintro rfl
    simp at hc
  omega

/-- The end of a left half lies 2^k positions before the end of its block of level k + 1. -/
theorem end_of_leftEnd {k i : Nat} (h : 2 ^ k ∣ i + 1) (hleft : ¬ 2 ^ (k + 1) ∣ i + 1) :
    2 ^ (k + 1) ∣ i + 2 ^ k + 1 := by
  obtain ⟨c, hc⟩ := h
  have hend : i + 2 ^ k + 1 = 2 ^ k * (c + 1) := by
    rw [Nat.mul_succ, ← hc]
    omega
  rw [hc, two_pow_succ_dvd_mul] at hleft
  rw [hend, two_pow_succ_dvd_mul]
  omega

/-- The end of a block that begins inside an array of whole blocks lies inside. -/
theorem end_lt_length {k i n : Nat} (hi : i < n) (hn : 2 ^ (k + 1) ∣ n) (hend : 2 ^ (k + 1) ∣ i + 2 ^ k + 1) :
    i + 2 ^ k < n := by
  obtain ⟨a, rfl⟩ := hn
  obtain ⟨b, hb⟩ := hend
  have hlt : 2 ^ (k + 1) * b < 2 ^ (k + 1) * (a + 1) := by
    rw [← hb, Nat.mul_succ, pow_succ]
    rw [pow_succ] at hi
    have := Nat.two_pow_pos k
    omega
  have hle : 2 ^ (k + 1) * b ≤ 2 ^ (k + 1) * a :=
    Nat.mul_le_mul_left _ (Nat.le_of_lt_succ (Nat.lt_of_mul_lt_mul_left hlt))
  omega

/-! ## One level -/

section Level

variable {k i : Nat} {s : List Word} (h : i < s.length)
include h

theorem arrayAt_upSweepLevel_end (hend : 2 ^ (k + 1) ∣ i + 1) :
    arrayAt (upSweepLevel k s) i = arrayAt s i + arrayAt s (i - 2 ^ k) := by
  rw [upSweepLevel, arrayAt_map_range h, if_pos (Nat.mod_eq_zero_of_dvd hend)]

theorem arrayAt_upSweepLevel_other (hnot : ¬ 2 ^ (k + 1) ∣ i + 1) : arrayAt (upSweepLevel k s) i = arrayAt s i := by
  rw [upSweepLevel, arrayAt_map_range h, if_neg (mt Nat.dvd_of_mod_eq_zero hnot)]

theorem arrayAt_downSweepLevel_end (hend : 2 ^ (k + 1) ∣ i + 1) :
    arrayAt (downSweepLevel k s) i = arrayAt s (i - 2 ^ k) + arrayAt s i := by
  rw [downSweepLevel, arrayAt_map_range h, if_pos (Nat.mod_eq_zero_of_dvd hend)]

theorem arrayAt_downSweepLevel_left (hk : 2 ^ k ∣ i + 1) (hleft : ¬ 2 ^ (k + 1) ∣ i + 1) :
    arrayAt (downSweepLevel k s) i = arrayAt s (i + 2 ^ k) := by
  have hend : (i + 1 + 2 ^ k) % 2 ^ (k + 1) = 0 := by
    rw [Nat.add_right_comm]
    exact Nat.mod_eq_zero_of_dvd (end_of_leftEnd hk hleft)
  rw [downSweepLevel, arrayAt_map_range h, if_neg (mt Nat.dvd_of_mod_eq_zero hleft), if_pos hend]

theorem arrayAt_downSweepLevel_inner (hk : ¬ 2 ^ k ∣ i + 1) : arrayAt (downSweepLevel k s) i = arrayAt s i := by
  have hdvd : 2 ^ k ∣ 2 ^ (k + 1) := Nat.pow_dvd_pow 2 k.le_succ
  have hnot : ¬ 2 ^ (k + 1) ∣ i + 1 := mt hdvd.trans hk
  have hnot' : ¬ 2 ^ (k + 1) ∣ i + 1 + 2 ^ k := fun hend => hk ((Nat.dvd_add_left dvd_rfl).1 (hdvd.trans hend))
  rw [downSweepLevel, arrayAt_map_range h, if_neg (mt Nat.dvd_of_mod_eq_zero hnot),
    if_neg (mt Nat.dvd_of_mod_eq_zero hnot')]

end Level

/-! ## Between two levels -/

/-- An array in the middle of a scan of x: where a block of a level j below k ends and none of level j + 1 does, its sum;
where a block of level k ends, what `atEnd` says. -/
structure BlockSums (x : List Word) (k : Nat) (atEnd : Nat → Word) (u : List Word) : Prop where
  length : u.length = x.length
  inner : ∀ j < k, ∀ i < x.length, 2 ^ j ∣ i + 1 → ¬ 2 ^ (j + 1) ∣ i + 1 → arrayAt u i = blockSum x j i
  ends : ∀ i < x.length, 2 ^ k ∣ i + 1 → arrayAt u i = atEnd i

/-- Before the up-sweep each word is its own block. -/
theorem blockSums_input (x : List Word) : BlockSums x 0 (blockSum x 0) x where
  length := rfl
  inner := fun j hj => absurd hj j.not_lt_zero
  ends := fun i hi _ => by
    rw [blockSum, sumBefore_succ hi, pow_zero, Nat.add_sub_cancel, add_sub_cancel_left]

/-- A level of the up-sweep adds up the blocks of the next level. -/
theorem BlockSums.upSweepLevel {x u : List Word} {k : Nat} (h : BlockSums x k (blockSum x k) u) :
    BlockSums x (k + 1) (blockSum x (k + 1)) (upSweepLevel k u) where
  length := by simpa [Machine.upSweepLevel] using h.length
  inner := by
    intro j hj i hi hdvd hnot
    have hnotEnd : ¬ 2 ^ (k + 1) ∣ i + 1 := mt (Nat.pow_dvd_pow 2 (Nat.succ_le_of_lt hj)).trans hnot
    rw [arrayAt_upSweepLevel_other (h.length ▸ hi) hnotEnd]
    rcases Nat.lt_succ_iff_lt_or_eq.1 hj with hlt | rfl
    · exact h.inner j hlt i hi hdvd hnot
    · exact h.ends i hi hdvd
  ends := by
    intro i hi hend
    obtain ⟨hright, hle, hleft, _⟩ := leftEnd_of_end hend
    rw [arrayAt_upSweepLevel_end (h.length ▸ hi) hend, h.ends i hi hright, h.ends _ (by omega) hleft,
      blockSum_add x hle]

theorem blockSums_upSweep (x : List Word) (n : Nat) : BlockSums x n (blockSum x n) (upSweep n x) := by
  induction n with
  | zero => exact blockSums_input x
  | succ n ih =>
    rw [upSweep, List.range_succ, List.foldl_append]
    exact ih.upSweepLevel

/-- The root cleared: no word lies before the one block of level n. -/
theorem BlockSums.clearRoot {x u : List Word} {n : Nat} {atEnd : Nat → Word} (h : BlockSums x n atEnd u)
    (hx : x.length = 2 ^ n) :
    BlockSums x n (fun i => sumBefore x (i + 1 - 2 ^ n)) (u.set (2 ^ n - 1) 0) where
  length := by simpa using h.length
  inner := by
    intro j hj i hi hdvd hnot
    have hroot : i ≠ 2 ^ n - 1 := by
      rintro rfl
      rw [Nat.sub_add_cancel (Nat.two_pow_pos n)] at hnot
      exact hnot (Nat.pow_dvd_pow 2 (Nat.succ_le_of_lt hj))
    rw [arrayAt_set_other u hroot, h.inner j hj i hi hdvd hnot]
  ends := by
    intro i hi hend
    have hle := Nat.le_of_dvd i.succ_pos hend
    obtain rfl : i = 2 ^ n - 1 := by omega
    rw [arrayAt_set_same (h.length ▸ hi), Nat.sub_add_cancel (Nat.two_pow_pos n), Nat.sub_self, sumBefore_zero]

/-- A level of the down-sweep hands what lies before a block to its two halves. -/
theorem BlockSums.downSweepLevel {x u : List Word} {k : Nat}
    (h : BlockSums x (k + 1) (fun i => sumBefore x (i + 1 - 2 ^ (k + 1))) u) (hx : 2 ^ (k + 1) ∣ x.length) :
    BlockSums x k (fun i => sumBefore x (i + 1 - 2 ^ k)) (downSweepLevel k u) where
  length := by simpa [Machine.downSweepLevel] using h.length
  inner := by
    intro j hj i hi hdvd hnot
    have hk : ¬ 2 ^ k ∣ i + 1 := mt (Nat.pow_dvd_pow 2 (Nat.succ_le_of_lt hj)).trans hnot
    rw [arrayAt_downSweepLevel_inner (h.length ▸ hi) hk, h.inner j (hj.trans k.lt_succ_self) i hi hdvd hnot]
  ends := by
    intro i hi hk
    by_cases hend : 2 ^ (k + 1) ∣ i + 1
    · obtain ⟨_, hle, hleft, hnot⟩ := leftEnd_of_end hend
      have hstart : i + 1 - 2 ^ (k + 1) = i - 2 ^ k + 1 - 2 ^ k := by omega
      have hmiddle : i + 1 - 2 ^ k = i - 2 ^ k + 1 := by omega
      rw [arrayAt_downSweepLevel_end (h.length ▸ hi) hend, h.ends i hi hend,
        h.inner k k.lt_succ_self _ (by omega) hleft hnot, hstart, hmiddle, add_comm, sumBefore_add_blockSum]
    · have hright := end_of_leftEnd hk hend
      have hstart : i + 2 ^ k + 1 - 2 ^ (k + 1) = i + 1 - 2 ^ k := by omega
      rw [arrayAt_downSweepLevel_left (h.length ▸ hi) hk hend, h.ends _ (end_lt_length hi hx hright) hright, hstart]

theorem BlockSums.downSweep {x u : List Word} {n : Nat}
    (h : BlockSums x n (fun i => sumBefore x (i + 1 - 2 ^ n)) u) (hx : 2 ^ n ∣ x.length) :
    BlockSums x 0 (fun i => sumBefore x (i + 1 - 2 ^ 0)) (downSweep n u) := by
  induction n generalizing u with
  | zero => exact h
  | succ n ih =>
    rw [Machine.downSweep, List.range_succ, List.foldr_append]
    exact ih (h.downSweepLevel hx) ((Nat.pow_dvd_pow 2 n.le_succ).trans hx)

/-- The Blelloch scan of 2^n words gives the exclusive sums. -/
theorem blellochScan_eq_exclusiveSums {n : Nat} {x : List Word} (hx : x.length = 2 ^ n) :
    blellochScan n x = exclusiveSums x := by
  have hscan := ((blockSums_upSweep x n).clearRoot hx).downSweep (Dvd.intro_left 1 (by rw [one_mul, hx]))
  refine List.ext_getElem (hscan.length.trans (by simp [exclusiveSums])) fun i hi hi' => ?_
  have hlt : i < x.length := hi.trans_eq hscan.length
  calc (blellochScan n x)[i] = arrayAt (blellochScan n x) i := (arrayAt_eq_getElem hi).symm
    _ = sumBefore x i := hscan.ends i hlt (one_dvd _)
    _ = (exclusiveSums x)[i] := by rw [← arrayAt_eq_getElem hi', arrayAt_exclusiveSums hlt]

/-- Settles O38: the scan's result for every power of two, at 2^8. -/
theorem blellochScanGivesExclusiveSums : Obligations.BlellochScanGivesExclusiveSums :=
  fun _ h => blellochScan_eq_exclusiveSums h

end Sys2Proof.Machine

namespace Sys2Proof.Machine

/-! # PREFIX under every interleaving

A workgroup owns its row of HIST: before its stores the row is as the dispatch found it, after them it holds the row's
exclusive sums, whatever the other three have done (42_prefix.md R150, R151). -/

/-! ## The moves of a workgroup -/

/-- Each of a run of stores to different words reads back. -/
theorem Memory.readWord_writeWords_mem {m : Memory} (h : Memory.wf m = true) {ws : List (Nat × Word)}
    (hnodup : (ws.map Prod.fst).Nodup) {i : Nat} {v : Word} (hmem : (i, v) ∈ ws) :
    Memory.readWord (Memory.writeWords m ws) i = v := by
  induction ws generalizing m with
  | nil => simp at hmem
  | cons x ws ih =>
    obtain ⟨hnotin, hnodup⟩ := List.nodup_cons.1 hnodup
    rw [Memory.writeWords]
    rcases List.mem_cons.1 hmem with rfl | hmem
    · have hmiss : ∀ y ∈ ws, y.1 ≠ i := fun y hy heq => hnotin (List.mem_map.2 ⟨y, hy, heq⟩)
      rw [readWord_writeWords_other (wf_writeWord h _ _) hmiss, readWord_writeWord_same h]
    · exact ih (wf_writeWord h _ _) hnodup hmem

theorem mem_rowIndices {p i : Nat} : i ∈ rowIndices p ↔ ∃ d < 256, i = hidx p d := by
  simp [rowIndices, eq_comm]

theorem nodup_rowStores (p : Nat) (xs : List Word) : ((rowStores p xs).map Prod.fst).Nodup := by
  rw [rowStores, List.map_map]
  refine List.nodup_range.map fun d e heq => ?_
  simpa [hidx] using heq

/-- The stores of row p: its words are the array's. -/
theorem loadWord_rowStores_same {s : State} (h : Memory.wf s.hist = true) (p : Nat) (xs : List Word) {d : Nat}
    (hd : d < 256) : loadWord (storeWords s .hist (rowStores p xs)) .hist (hidx p d) = arrayAt xs d := by
  have hmem : (hidx p d, arrayAt xs d) ∈ rowStores p xs := List.mem_map.2 ⟨d, List.mem_range.2 hd, rfl⟩
  rw [storeWords, loadWord_setMem_same]
  exact Memory.readWord_writeWords_mem h (nodup_rowStores p xs) hmem

/-- The stores of row p leave the other rows alone. -/
theorem loadWord_rowStores_other {s : State} (h : Memory.wf s.hist = true) {p q : Nat} (hpq : q ≠ p) (xs : List Word)
    {d : Nat} (hd : d < 256) :
    loadWord (storeWords s .hist (rowStores p xs)) .hist (hidx q d) = loadWord s .hist (hidx q d) := by
  rw [storeWords, loadWord_setMem_same]
  refine Memory.readWord_writeWords_other h fun x hx heq => hpq ?_
  obtain ⟨e, he, hx⟩ := mem_rowIndices.1 (rowStores_mem hx)
  exact ((hidx_eq_iff hd he).1 (heq.symm.trans hx)).1

/-- Row p of HIST as its workgroup loads it (42_prefix.md R151). -/
def rowWords (s : State) (p : Nat) : List Word := (rowIndices p).map (loadWord s .hist)

theorem length_rowWords (s : State) (p : Nat) : (rowWords s p).length = 256 := by simp [rowWords, rowIndices]

theorem rowWords_congr {s u : State} {p : Nat}
    (h : ∀ d < 256, loadWord u .hist (hidx p d) = loadWord s .hist (hidx p d)) : rowWords u p = rowWords s p := by
  refine List.map_congr_left fun i hi => ?_
  obtain ⟨d, hd, rfl⟩ := mem_rowIndices.1 hi
  exact h d hd

theorem sumBefore_rowWords (s : State) (p : Nat) {d : Nat} (hd : d ≤ 256) :
    sumBefore (rowWords s p) d = sumWords ((List.range d).map fun e => loadWord s .hist (hidx p e)) := by
  rw [sumBefore, rowWords, rowIndices, List.map_map, ← List.map_take, List.take_range, Nat.min_eq_left hd]
  rfl

/-- What the workgroup of row p stores once it has loaded row p of s. -/
theorem arrayAt_blellochScan_rowWords (s : State) (p : Nat) {d : Nat} (hd : d < 256) :
    arrayAt (blellochScan 8 (rowWords s p)) d = sumBefore (rowWords s p) d := by
  have hlt : d < (rowWords s p).length := hd.trans_eq (length_rowWords s p).symm
  rw [blellochScan_eq_exclusiveSums (length_rowWords s p), arrayAt_exclusiveSums hlt]

section Moves

variable {groups : List ScanGroup} {p : Nat} {g : ScanGroup} {s : State} (hp : p < 4)
include hp

theorem rowIndices_inside (c : Config) : ∀ i ∈ rowIndices p, i < spaceWords c .hist := by
  intro i hi
  obtain ⟨d, hd, rfl⟩ := mem_rowIndices.1 hi
  exact hidx_inside c hp hd

theorem scanGroupMove_load (hph : g.phase = .load) :
    scanGroupMove groups p g s = .next (setScanGroup s groups p { phase := .scan, scan := rowWords s p }) := by
  simp only [scanGroupMove, hph, guardSpace_inside (rowIndices_inside hp s.cfg)]
  rfl

theorem scanGroupMove_scan (hph : g.phase = .scan) :
    scanGroupMove groups p g s
      = .next (setScanGroup (storeWords s .hist (rowStores p (blellochScan 8 g.scan))) groups p
          { phase := .done, scan := blellochScan 8 g.scan }) := by
  simp only [scanGroupMove, hph, guardSpace_inside (rowIndices_inside hp s.cfg)]

end Moves

/-! ## The middle of a dispatch -/

/-- u is s but for what PREFIX writes: the HIST rows, and the dispatch with its draws. -/
structure ScanFrame (s u : State) : Prop where
  fields : u = { s with hist := u.hist, executing := u.executing, sched := u.sched, fresh := u.fresh }
  hist : Memory.StoredAt (fun i => i < 1024) s.hist u.hist

theorem ScanFrame.host {s u : State} (h : ScanFrame s u) : u.host = s.host := by
  rw [h.fields]

theorem ScanFrame.trans {s u v : State} (h : ScanFrame s u) (h' : ScanFrame u v) : ScanFrame s v where
  fields := by
    have hv := h'.fields
    rw [h.fields] at hv
    exact hv
  hist := h.hist.trans h'.hist

theorem DrawsFrom.scanFrame {s u : State} (h : DrawsFrom s u) : ScanFrame s u where
  fields := by
    unfold DrawsFrom at h
    rw [h]
  hist := by
    have hmem : u.hist = s.hist := h.memOf .hist
    exact hmem ▸ .refl _ _

theorem scanFrame_setScanGroup (s : State) (groups : List ScanGroup) (p : Nat) (g : ScanGroup) :
    ScanFrame s (setScanGroup s groups p g) := ⟨rfl, .refl _ _⟩

theorem scanFrame_setMem_hist (s : State) {m : Memory} (h : Memory.StoredAt (fun i => i < 1024) s.hist m) :
    ScanFrame s (setMem s .hist m) := ⟨rfl, h⟩

theorem scanFrame_rowStores (s : State) {p : Nat} (hp : p < 4) (xs : List Word) :
    ScanFrame s (storeWords s .hist (rowStores p xs)) := by
  refine scanFrame_setMem_hist s ⟨_, fun x hx => ?_, rfl⟩
  obtain ⟨d, hd, hx⟩ := mem_rowIndices.1 (rowStores_mem hx)
  simp only [hx, hidx]
  omega

/-- Workgroup p of the dispatch of s: until it is done its row is as it was, and then holds the exclusive sums; between
LOAD and its stores it has the row in shared memory. -/
structure ScanGroupShape (s u : State) (p : Nat) (g : ScanGroup) : Prop where
  row : ∀ d < 256, loadWord u .hist (hidx p d)
    = if g.phase = .done then sumBefore (rowWords s p) d else loadWord s .hist (hidx p d)
  loaded : g.phase = .scan → g.scan = rowWords s p

/-- u is a state in the middle of the PREFIX that s starts. -/
structure ScanRunning (s u : State) (groups : List ScanGroup) : Prop where
  frame : ScanFrame s u
  executing : u.executing = some (.scan groups)
  count : groups.length = 4
  shape : ∀ p g, groups[p]? = some g → ScanGroupShape s u p g

theorem startScan_running (s : State) :
    ScanRunning s (startScan s) ((List.range 4).map (scanGroupStart s)) where
  frame := ⟨rfl, .refl _ _⟩
  executing := rfl
  count := by simp
  shape := by
    intro p g hg
    obtain ⟨q, _, rfl⟩ := List.mem_map.1 (List.mem_of_getElem? hg)
    exact ⟨fun d _ => rfl, fun hscan => by simp [scanGroupStart] at hscan⟩

theorem ScanGroupShape.congr {s u v : State} {p : Nat} {g : ScanGroup} (h : ScanGroupShape s u p g)
    (hrow : ∀ d < 256, loadWord v .hist (hidx p d) = loadWord u .hist (hidx p d)) : ScanGroupShape s v p g :=
  ⟨fun d hd => (hrow d hd).trans (h.row d hd), h.loaded⟩

theorem ScanRunning.after_draws {s u v : State} {groups : List ScanGroup} (h : ScanRunning s u groups)
    (hd : DrawsFrom u v) : ScanRunning s v groups where
  frame := h.frame.trans hd.scanFrame
  executing := hd.executing.trans h.executing
  count := h.count
  shape := fun p g hg => (h.shape p g hg).congr fun d _ => by simp only [loadWord, hd.memOf .hist]

/-- A workgroup's move, when it writes its own row only. -/
theorem ScanRunning.setGroup {s u v : State} {groups : List ScanGroup} {p : Nat} {g' : ScanGroup}
    (h : ScanRunning s u groups) (hframe : ScanFrame u v)
    (hother : ∀ q, q ≠ p → ∀ d < 256, loadWord v .hist (hidx q d) = loadWord u .hist (hidx q d))
    (hshape : ScanGroupShape s v p g') : ScanRunning s (setScanGroup v groups p g') (groups.set p g') where
  frame := (h.frame.trans hframe).trans (scanFrame_setScanGroup v groups p g')
  executing := rfl
  count := by simpa using h.count
  shape := by
    intro q g₁ hq
    rw [List.getElem?_set] at hq
    split at hq
    · next heq =>
      obtain ⟨_, rfl⟩ : _ ∧ g' = g₁ := by simpa using hq
      subst heq
      exact ⟨hshape.row, hshape.loaded⟩
    · next hne =>
      obtain ⟨hrow, hloaded⟩ := (h.shape q g₁ hq).congr (hother q (Ne.symm hne))
      exact ⟨hrow, hloaded⟩

section Steps

variable {s u : State} {groups : List ScanGroup} {p : Nat} {g : ScanGroup} (h : ScanRunning s u groups)
  (hg : groups[p]? = some g)
include h hg

theorem ScanRunning.group_lt : p < 4 := (List.getElem?_eq_some_iff.1 hg).1.trans_eq h.count

/-- LOAD goes through, and leaves the workgroup with its row as s has it. -/
theorem ScanRunning.load (hph : g.phase = .load) :
    ∃ t, scanGroupMove groups p g u = .next t ∧ ∃ groups', ScanRunning s t groups' := by
  have hrow : ∀ d < 256, loadWord u .hist (hidx p d) = loadWord s .hist (hidx p d) :=
    fun d hd => ((h.shape p g hg).row d hd).trans (if_neg (by simp [hph]))
  exact ⟨_, scanGroupMove_load (h.group_lt hg) hph, _, h.setGroup (DrawsFrom.refl u).scanFrame (fun _ _ _ _ => rfl)
    ⟨hrow, fun _ => rowWords_congr hrow⟩⟩

/-- The scan with its stores goes through, and leaves the row with its exclusive sums (42_prefix.md R151, R153). -/
theorem ScanRunning.scan (hwf : Memory.wf s.hist = true) (hph : g.phase = .scan) :
    ∃ t, scanGroupMove groups p g u = .next t ∧ ∃ groups', ScanRunning s t groups' := by
  have hp := h.group_lt hg
  have hwf : Memory.wf u.hist = true := h.frame.hist.wf hwf
  refine ⟨_, scanGroupMove_scan hp hph, _, h.setGroup (scanFrame_rowStores u hp _)
    (fun q hq d hd => loadWord_rowStores_other hwf hq _ hd) ⟨fun d hd => ?_, fun hscan => by simp at hscan⟩⟩
  rw [loadWord_rowStores_same hwf p _ hd, (h.shape p g hg).loaded hph, arrayAt_blellochScan_rowWords s p hd]
  rfl

/-- Every move of a workgroup goes through, and leads to a state in the middle of the dispatch again. -/
theorem ScanRunning.groupMove (hwf : Memory.wf s.hist = true) (hph : g.phase ≠ .done) :
    ∃ t, scanGroupMove groups p g u = .next t ∧ ∃ groups', ScanRunning s t groups' := by
  cases hphase : g.phase with
  | load => exact h.load hg hphase
  | scan => exact h.scan hg hwf hphase
  | done => exact absurd hphase hph

end Steps

/-! ## The dispatch as a whole -/

/-- A state that the PREFIX of s can reach: in the middle, or completed once every workgroup is done. -/
inductive ScanReach (s : State) : State → Prop where
  | running (u : State) (groups : List ScanGroup) (middle : ScanRunning s u groups) : ScanReach s u
  | ended (u : State) (groups : List ScanGroup) (last : ScanRunning s u groups)
      (done : ∀ g ∈ groups, g.phase = .done) : ScanReach s (scanDone u)

/-- A PREFIX always has a move, which leads to a state it can reach. -/
theorem ScanReach.dispatchMove {s u : State} {e : Executing} (h : ScanReach s u) (hwf : Memory.wf s.hist = true)
    (hhost : s.host = []) (he : u.executing = some e) :
    ∃ t, Machine.dispatchMove e u = .next t ∧ ScanReach s t := by
  cases h with
  | ended u groups last => simp at he
  | running _ groups middle =>
    obtain rfl := Option.some.inj (middle.executing.symm.trans he)
    refine dispatchMove_leadsTo he (middle.frame.host.trans hhost) (fun hnone => ?_) fun a ha u' hd => ?_
    · exact ⟨_, rfl, .ended _ _ middle (dispatchAgents_scan_eq_nil.1 hnone)⟩
    · obtain ⟨p, g, rfl, hg, hph⟩ := mem_dispatchAgents_scan ha
      obtain ⟨t, hmove, _, ht⟩ := (middle.after_draws hd).groupMove hg hwf hph
      refine ⟨t, ?_, .running _ _ ht⟩
      simpa only [agentMove, Machine.groupMove, hg] using hmove

/-- A PREFIX runs until every workgroup is done, and completes. -/
theorem scan_ends {s : State} (hwf : Memory.wf s.hist = true) (hhost : s.host = []) :
    ∃ u groups, runToEnd (startScan s) = .next (scanDone u) ∧ ScanRunning s u groups
      ∧ ∀ g ∈ groups, g.phase = .done := by
  obtain ⟨t, hrun, ht⟩ := runMoves_total (P := ScanReach s) (fun u e hu he => hu.dispatchMove hwf hhost he)
    (remainingMoves (startScan s)) (.running _ _ (startScan_running s))
  cases ht with
  | running _ _ middle =>
    have hend := runToEnd_ends hrun
    simp [middle.executing] at hend
  | ended _ _ last done => exact ⟨_, _, hrun, last, done⟩

/-- Once every workgroup is done, every row holds its exclusive sums. -/
theorem ScanRunning.rows_of_done {s u : State} {groups : List ScanGroup} (h : ScanRunning s u groups)
    (hdone : ∀ g ∈ groups, g.phase = .done) {p d : Nat} (hp : p < 4) (hd : d < 256) :
    loadWord u .hist (hidx p d) = sumWords ((List.range d).map fun e => loadWord s .hist (hidx p e)) := by
  have hlt : p < groups.length := hp.trans_eq h.count.symm
  have hrow := (h.shape p _ (List.getElem?_eq_getElem hlt)).row d hd
  rw [if_pos (hdone _ (List.getElem_mem hlt)), sumBefore_rowWords s p hd.le] at hrow
  exact hrow

/-- PREFIX in another phase than 2 is discarded (44_orchestrator.md R232). -/
theorem exec_prefixScan_discarded {s : State} (hphase : s.phase ≠ .histogrammed) :
    exec .prefixScan s = .next (discard s) := by
  simp [exec, execPrefix, runCommand, prefixAccepted, hphase]

theorem exec_prefixScan_histogrammed {s : State} (hphase : s.phase = .histogrammed) (hlegal : sizesLegal s = true) :
    exec .prefixScan s = runToEnd (startScan s) := by
  simp [exec, execPrefix, runCommand, prefixAccepted, hphase, hlegal]

/-- Settles O39: the rows at the end of the dispatch are those of the invariant of its middle, ScanRunning, with every
workgroup done. -/
theorem prefixSumsEveryRow : Obligations.PrefixSumsEveryRow := by
  intro s hhost hidle
  refine ⟨exec_prefixScan_discarded, fun hphase hlegal hwf => ?_⟩
  obtain ⟨u, groups, hrun, hlast, hdone⟩ := scan_ends hwf hhost
  refine ⟨scanDone u, (exec_prefixScan_histogrammed hphase hlegal).trans hrun, ?_,
    fun p hp d hd => hlast.rows_of_done hdone hp hd, fun a ha => ?_⟩
  · have hfields := hlast.frame.fields
    rw [scanDone, ← hidle]
    exact congrArg (fun v : State => { v with phase := .scanned, executing := s.executing }) hfields
  · exact hlast.frame.hist.readByte hwf fun i hi => by omega

end Sys2Proof.Machine

namespace Sys2Proof.Machine

/-! # What a poll does -/

/-- Settles O30: the bound of dispatchMove_remainingMoves_lt. -/
theorem everyMoveShortensTheCommand : Obligations.EveryMoveShortensTheCommand :=
  fun _ _ _ he h => dispatchMove_remainingMoves_lt he h

/-- Settles O40: the load answers the newest value where nothing older is left to read, and on another value than 0 the
poll is abortLane's, over nothing but the draws of that load. -/
theorem pollAbortsOnSortFailed : Obligations.PollAbortsOnSortFailed := by
  intro run w d g l s f
  constructor
  · intro hseen
    have hplace : f.1 = run.failedOlder.length := by
      obtain ⟨hle, hge, _⟩ := loadCoherent_spec (cur := s.sortFailed) (s := s) hseen.le
      exact le_antisymm hge (hseen ▸ hle)
    have hvalue := loadCoherent_value s.sortFailed run.failedOlder l.seenFailed s
    change (s.sortFailed :: run.failedOlder)[run.failedOlder.length - f.1]? = some f.2.1 at hvalue
    simpa [hplace] using hvalue.symm
  · intro hset l' g'
    have hpoll : poll run w d g l s = abortLane run w d g { l with seenFailed := f.1 } f.2.2 := if_pos hset
    have hdraw : DrawsFrom s f.2.2 := loadCoherent_draws _ _ _ _
    rw [hpoll, abortLane, hdraw]
    rfl

end Sys2Proof.Machine

namespace Sys2Proof.Machine

section Outcome

variable {p budget cursor retries : Nat} {v c : Word}

theorem pollOutcome_of_inclusive (h : status v p = (.inclusive, c)) :
    pollOutcome p budget cursor retries v = .resolve c := by simp [pollOutcome, h]

theorem pollOutcome_of_aggregate (h : status v p = (.aggregate, c)) (hcur : 0 < cursor) :
    pollOutcome p budget cursor retries v = .advance c := by simp [pollOutcome, h, hcur]

/-- An Aggregate at slot 0, an Invalid and a Foreign word are not ready (30_encoding.md R101). -/
theorem pollOutcome_of_notReady
    (h : (status v p = (.aggregate, c) ∧ cursor = 0) ∨ status v p = (.invalid, c) ∨ status v p = (.foreign, c)) :
    pollOutcome p budget cursor retries v = notReady budget retries := by
  rcases h with ⟨h, hcur⟩ | h | h
  · simp [pollOutcome, h, hcur]
  · simp [pollOutcome, h]
  · simp [pollOutcome, h]

end Outcome

/-- A poll that reads SORT_FAILED as 0 goes on to its slot (43_scatter.md R183, R185). -/
theorem poll_eq_pollSlot {run : ScatterRun} {w d : Nat} {g : ScatterGroup} {l : Lane} {s : State}
    (h : (loadCoherent s.sortFailed run.failedOlder l.seenFailed s).2.1 = 0) :
    poll run w d g l s
      = pollSlot run w d g { l with seenFailed := (loadCoherent s.sortFailed run.failedOlder l.seenFailed s).1 }
          (loadCoherent s.sortFailed run.failedOlder l.seenFailed s).2.2 := if_neg (not_not_intro h)

/-- What a lane does on each outcome of its poll (43_scatter.md R185). -/
def actOnOutcome (run : ScatterRun) (w d : Nat) (g : ScatterGroup) (l : Lane) (s : State) : PollOutcome → Result
  | .resolve c => resolveLane run w d g l c s
  | .advance c => advanceLane run w d g l c s
  | .contention => retryLane run w d g l s
  | .budget => failLookback run w d g l s

/-- A poll of a slot inside HIST acts on the outcome of the word that its load answers. -/
theorem pollSlot_eq_actOnOutcome {run : ScatterRun} {w d : Nat} {g : ScatterGroup} {l : Lane} {s : State} {word : Word}
    {budget : Nat} (hslot : pidx l.cursor d < spaceWords s.cfg .hist)
    (hword : loadWord s .hist (pidx l.cursor d) = word) (hbudget : s.cfg.spinBudget = budget) :
    pollSlot run w d g l s
      = actOnOutcome run w d g { l with seenSlot := (loadCoherent word (slotOlder run l.cursor d) l.seenSlot s).1 }
          (loadCoherent word (slotOlder run l.cursor d) l.seenSlot s).2.2
          (pollOutcome run.pass budget l.cursor l.retries
            (loadCoherent word (slotOlder run l.cursor d) l.seenSlot s).2.1) := by
  subst hword hbudget
  exact (guardSpace_word hslot).trans rfl

/-- Settles O41: the two loads take nothing but draws, and the outcome of the word read picks the move of the lane. -/
theorem pollActsOnTheSlotItReads : Obligations.PollActsOnTheSlotItReads := by
  intro run w d g l s c f v hclear hslot hown u seen st dispatch
  have hf : DrawsFrom s f.2.2 := loadCoherent_draws _ _ _ _
  have hu : v.2.2 = u := hf.trans (loadCoherent_draws _ _ _ _)
  have hword : loadWord f.2.2 .hist (pidx l.cursor d) = loadWord s .hist (pidx l.cursor d) :=
    loadWord_hist_congr hf.hist _
  have hcfg : f.2.2.cfg = s.cfg := hf.sameRegisters.cfg
  have hpoll : poll run w d g l s = actOnOutcome run w d g seen u
      (pollOutcome run.pass s.cfg.spinBudget l.cursor l.retries v.2.1) :=
    calc poll run w d g l s = pollSlot run w d g { l with seenFailed := f.1 } f.2.2 := poll_eq_pollSlot hclear
      _ = actOnOutcome run w d g seen v.2.2
            (pollOutcome run.pass s.cfg.spinBudget l.cursor l.retries v.2.1) :=
        pollSlot_eq_actOnOutcome (hcfg ▸ hslot) hword (congrArg Config.spinBudget hcfg)
      _ = _ := congrArg (fun z => actOnOutcome run w d g seen z _) hu
  refine ⟨fun hst => ?_, fun hst hcur => ?_, fun hst => ⟨fun hlt => ?_, fun hge => ?_⟩⟩
  · rw [hpoll, pollOutcome_of_inclusive hst]
    refine ⟨_, guardSpace_word hown, rfl, fun hwf j => ?_⟩
    exact loadWord_publishWord (s := u) hwf w d j _
  · exact hpoll.trans (congrArg _ (pollOutcome_of_aggregate hst hcur))
  · exact hpoll.trans (congrArg _ ((pollOutcome_of_notReady hst).trans (if_neg (by omega))))
  · exact hpoll.trans (congrArg _ ((pollOutcome_of_notReady hst).trans (if_pos (by omega))))

/-! # WRITE -/

/-- A word after a run of stores, among them one to it, and no other value to it. -/
theorem Memory.readWord_writeWords_of_unique {m : Memory} (h : Memory.wf m = true) {ws : List (Nat × Word)} {i : Nat}
    {v : Word} (hmem : (i, v) ∈ ws) (huniq : ∀ x ∈ ws, x.1 = i → x.2 = v) :
    Memory.readWord (Memory.writeWords m ws) i = v := by
  induction ws generalizing m with
  | nil => simp at hmem
  | cons x ws ih =>
    obtain ⟨j, y⟩ := x
    by_cases hin : (i, v) ∈ ws
    · exact ih (Memory.wf_writeWord h j y) hin fun x hx => huniq x (List.mem_cons_of_mem _ hx)
    · obtain ⟨rfl, rfl⟩ : i = j ∧ v = y := by simpa [hin] using hmem
      have hmiss : ∀ x ∈ ws, x.1 ≠ i := by
        rintro ⟨k, z⟩ hx rfl
        have hz : z = v := huniq (k, z) (List.mem_cons_of_mem _ hx) rfl
        exact hin (hz ▸ hx)
      exact (Memory.readWord_writeWords_other (Memory.wf_writeWord h i v) hmiss).trans
        (Memory.readWord_writeWord_same h i v)

/-- An order of all the listed things holds each of them once. -/
theorem shuffle_perm {α : Type} (xs : List α) (s : State) : (shuffle xs.length xs s).1.Perm xs := by
  generalize hn : xs.length = n
  induction n generalizing xs s with
  | zero => simp [shuffle]
  | succ n ih =>
    have hne : xs.zipIdx ≠ [] := by simp [← List.length_eq_zero_iff, hn]
    obtain ⟨⟨x, i⟩, s', hpick⟩ := pick_isSome hne s
    have hx : xs[i]? = some x := List.mem_zipIdx_iff_getElem?.1 (pick_some hpick).1
    obtain ⟨hi, rfl⟩ := List.getElem?_eq_some_iff.1 hx
    have hrest := ih (xs.eraseIdx i) s' (by rw [List.length_eraseIdx_of_lt hi, hn]; rfl)
    simp only [shuffle, hpick]
    exact (hrest.cons _).trans (List.getElem_cons_eraseIdx_perm hi)

theorem writeOrder_perm (ps : List Placed) (s : State) : (writeOrder ps s).1.Perm ps := by
  unfold writeOrder
  split
  · exact .refl ps
  · exact shuffle_perm ps s

theorem role_ne (p : Nat) : destKeys p ≠ destPay p ∧ sourceKeys p ≠ destKeys p ∧ sourceKeys p ≠ destPay p
    ∧ sourcePay p ≠ destKeys p ∧ sourcePay p ≠ destPay p := by
  rcases Nat.mod_two_eq_zero_or_one p with hp | hp
  · obtain ⟨h1, h2, h3, h4⟩ := roles_even hp
    simp [h1, h2, h3, h4]
  · obtain ⟨h1, h2, h3, h4⟩ := roles_odd hp
    simp [h1, h2, h3, h4]

theorem memOf_placeAll_keys (s : State) (p : Nat) (ps : List Placed) : memOf (placeAll s p ps) (destKeys p)
    = Memory.writeWords (memOf s (destKeys p)) (ps.map fun x => (x.index, x.key)) := by
  rw [placeAll, storeWords, memOf_setMem_other _ _ (role_ne p).1, storeWords, memOf_setMem_same]

theorem memOf_placeAll_pay (s : State) (p : Nat) (ps : List Placed) : memOf (placeAll s p ps) (destPay p)
    = Memory.writeWords (memOf s (destPay p)) (ps.map fun x => (x.index, x.pay)) := by
  rw [placeAll, storeWords, memOf_setMem_same, storeWords, memOf_setMem_other _ _ (role_ne p).1.symm]

theorem memOf_placeAll_other (s : State) (p : Nat) (ps : List Placed) {sp : Space} (hk : sp ≠ destKeys p)
    (hp : sp ≠ destPay p) : memOf (placeAll s p ps) sp = memOf s sp := by
  rw [placeAll, storeWords, memOf_setMem_other _ _ hp, storeWords, memOf_setMem_other _ _ hk]

/-- What WRITE answers: the stores of the tile's elements in some order (43_scatter.md R190). -/
theorem scatterWrite_next {run : ScatterRun} {w : Nat} {g : ScatterGroup} {s t : State}
    (h : scatterWrite run w g s = .next t) : ∃ ps s', DrawsFrom s s' ∧ ps.Perm (stored s.cfg run g) ∧
      t = setScatter (placeAll s' run.pass ps) (run.setGroup w { g with phase := .done }) := by
  obtain ⟨_, h⟩ := guardSpace_next.1 h
  obtain ⟨_, h⟩ := guardSpace_next.1 h
  exact ⟨_, _, (writeOrder_spec _ s).2, writeOrder_perm _ s, (Host.Outcome.next.inj h).symm⟩

theorem mem_stored_iff {c : Config} {run : ScatterRun} {g : ScatterGroup} {x : Placed} :
    x ∈ stored c run g ↔ ∃ o < c.tileS, dstAt g o < run.size
      ∧ x = { index := dstAt g o, key := arrayAt g.kv o, pay := arrayAt g.pv o } := by
  rw [mem_stored, placements, List.mem_map]
  constructor
  · rintro ⟨⟨o, ho, rfl⟩, hlt⟩
    exact ⟨o, List.mem_range.1 ho, hlt, rfl⟩
  · rintro ⟨o, ho, hlt, rfl⟩
    exact ⟨⟨o, List.mem_range.2 ho, rfl⟩, hlt⟩

section Write

variable {c : Config} {run : ScatterRun} {g : ScatterGroup} {ps : List Placed} (hps : ps.Perm (stored c run g))
  {m : Memory} (hwf : Memory.wf m = true) {f : Placed → Word}
include hps hwf

/-- A byte outside the destination indices is as before. -/
theorem readByte_writeWords_stored {a : Nat}
    (ha : ∀ o < c.tileS, dstAt g o < run.size → a < 4 * dstAt g o ∨ 4 * dstAt g o + 4 ≤ a) :
    Memory.readByte (Memory.writeWords m (ps.map fun x => (x.index, f x))) a = Memory.readByte m a := by
  refine Memory.readByte_writeWords_other hwf fun y hy => ?_
  obtain ⟨x, hx, rfl⟩ := List.mem_map.1 hy
  obtain ⟨o, ho, hlt, rfl⟩ := mem_stored_iff.1 (hps.mem_iff.1 hx)
  exact ha o ho hlt

/-- The element whose destination index no other of the tile shares is stored there. -/
theorem readWord_writeWords_stored {o : Nat} (ho : o < c.tileS) (hlt : dstAt g o < run.size)
    (huniq : ∀ o' < c.tileS, dstAt g o' = dstAt g o → o' = o) :
    Memory.readWord (Memory.writeWords m (ps.map fun x => (x.index, f x))) (dstAt g o)
      = f { index := dstAt g o, key := arrayAt g.kv o, pay := arrayAt g.pv o } := by
  refine Memory.readWord_writeWords_of_unique hwf ?_ fun y hy hindex => ?_
  · exact List.mem_map.2 ⟨_, hps.mem_iff.2 (mem_stored_iff.2 ⟨o, ho, hlt, rfl⟩), rfl⟩
  · obtain ⟨x, hx, rfl⟩ := List.mem_map.1 hy
    obtain ⟨o', ho', _, rfl⟩ := mem_stored_iff.1 (hps.mem_iff.1 hx)
    rw [huniq o' ho' hindex]

end Write

/-- Settles O44: the stores of WRITE are those of the tile's elements, in some order, and an index that one element has
for itself is stored to once. -/
theorem writeStoresOnlyAtItsDestinations : Obligations.WriteStoresOnlyAtItsDestinations := by
  intro run w g s t hmem h
  obtain ⟨ps, s', hd, hps, rfl⟩ := scatterWrite_next h
  have hwf : ∀ sp, Memory.wf (memOf s' sp) = true := fun sp => hd.memOf sp ▸ ((memOk_iff s).1 hmem sp).1
  obtain ⟨_, hkk, hkp, hpk, hpp⟩ := role_ne run.pass
  obtain ⟨hhk, hhp⟩ := dest_ne_hist run.pass
  simp only [memOf_setScatter, loadWord, memOf_placeAll_keys, memOf_placeAll_pay, ← hd.memOf]
  refine ⟨fun a ha => ⟨?_, ?_⟩, fun o ho hlt huniq => ⟨?_, ?_⟩, ?_, ?_, ?_, ?_⟩
  · exact readByte_writeWords_stored hps (hwf _) ha
  · exact readByte_writeWords_stored hps (hwf _) ha
  · exact readWord_writeWords_stored hps (hwf _) ho hlt huniq
  · exact readWord_writeWords_stored hps (hwf _) ho hlt huniq
  · exact memOf_placeAll_other s' _ ps hkk hkp
  · exact memOf_placeAll_other s' _ ps hpk hpp
  · exact (placeAll_hist s' run.pass ps).trans hd.hist
  · simpa [placeAll] using hd.sortFailed

/-! # Stable positions -/

theorem countDigit_mono (key : Nat → Word) (p d : Nat) {m n : Nat} (h : m ≤ n) :
    countDigit key p m d ≤ countDigit key p n d := (List.range_sublist.2 h).countP_le

/-- Element i has digit d, so it counts once i is behind it. -/
theorem countDigit_lt {key : Nat → Word} {p n d i : Nat} (hi : i < n) (hd : (digit (key i) p).toNat = d) :
    countDigit key p i d < countDigit key p n d := by
  have hsucc : countDigit key p (i + 1) d = countDigit key p i d + 1 := by
    simp [countDigit, List.range_succ, hd]
  have hmono : countDigit key p (i + 1) d ≤ countDigit key p n d := countDigit_mono key p d hi
  omega

/-- The elements with a digit up to d are those below it and those with it. -/
theorem countBelow_succ (key : Nat → Word) (p n d : Nat) :
    countBelow key p n (d + 1) = countBelow key p n d + countDigit key p n d := by
  induction n with
  | zero => rfl
  | succ n ih =>
    simp only [countBelow, countDigit, List.range_succ, List.countP_append, List.countP_singleton] at ih ⊢
    rw [ih]
    rcases lt_trichotomy (digit (key n) p).toNat d with hlt | heq | hgt
    · have hlt' : (digit (key n) p).toNat < d + 1 := by omega
      simp [hlt, hlt', hlt.ne]
      omega
    · simp [heq]
      omega
    · have hgt' : ¬ (digit (key n) p).toNat < d + 1 := by omega
      simp [hgt.not_gt, hgt', hgt.ne']

theorem countBelow_le (key : Nat → Word) (p n d : Nat) : countBelow key p n d ≤ n :=
  List.countP_le_length.trans_eq List.length_range

theorem countBelow_mono (key : Nat → Word) (p n : Nat) {d e : Nat} (h : d ≤ e) :
    countBelow key p n d ≤ countBelow key p n e :=
  List.countP_mono_left fun i _ hi => by
    simp only [decide_eq_true_eq] at hi ⊢
    omega

theorem stablePos_lt_countBelow {key : Nat → Word} {p n i : Nat} (hi : i < n) :
    stablePos key p n i < countBelow key p n ((digit (key i) p).toNat + 1) := by
  rw [countBelow_succ]
  exact Nat.add_lt_add_left (countDigit_lt hi rfl) _

theorem stablePos_lt {key : Nat → Word} {p n i : Nat} (hi : i < n) : stablePos key p n i < n :=
  (stablePos_lt_countBelow hi).trans_le (countBelow_le _ _ _ _)

theorem stablePos_lt_of_digit_lt {key : Nat → Word} {p n i j : Nat} (hi : i < n)
    (h : (digit (key i) p).toNat < (digit (key j) p).toNat) : stablePos key p n i < stablePos key p n j :=
  calc stablePos key p n i < countBelow key p n ((digit (key i) p).toNat + 1) := stablePos_lt_countBelow hi
    _ ≤ countBelow key p n (digit (key j) p).toNat := countBelow_mono _ _ _ h
    _ ≤ stablePos key p n j := Nat.le_add_right _ _

theorem stablePos_lt_of_index_lt {key : Nat → Word} {p n i j : Nat}
    (h : digit (key i) p = digit (key j) p) (hij : i < j) : stablePos key p n i < stablePos key p n j := by
  simp only [stablePos, h]
  exact Nat.add_lt_add_left (countDigit_lt hij (by rw [h])) _

/-- The stable counting sort orders elements by their digit, and those of one digit by their index
(43_scatter.md R193). -/
theorem stablePos_lt_iff {key : Nat → Word} {p n i j : Nat} (hi : i < n) (hj : j < n) :
    stablePos key p n i < stablePos key p n j ↔
      (digit (key i) p).toNat < (digit (key j) p).toNat ∨ digit (key i) p = digit (key j) p ∧ i < j := by
  constructor
  · intro h
    rcases lt_trichotomy (digit (key i) p).toNat (digit (key j) p).toNat with hlt | heq | hgt
    · exact .inl hlt
    · have heq : digit (key i) p = digit (key j) p := BitVec.eq_of_toNat_eq heq
      refine .inr ⟨heq, lt_of_not_ge fun hle => ?_⟩
      rcases hle.eq_or_lt with rfl | hlt
      · omega
      · exact h.not_gt (stablePos_lt_of_index_lt heq.symm hlt)
    · exact absurd h (stablePos_lt_of_digit_lt hj hgt).not_gt
  · rintro (h | ⟨h, hij⟩)
    · exact stablePos_lt_of_digit_lt hi h
    · exact stablePos_lt_of_index_lt h hij

theorem stablePos_injective {key : Nat → Word} {p n i j : Nat} (hi : i < n) (hj : j < n)
    (h : stablePos key p n i = stablePos key p n j) : i = j := by
  have hij := (stablePos_lt_iff hi hj).not.1 h.not_lt
  have hji := (stablePos_lt_iff hj hi).not.1 h.not_gt
  have hdigit : digit (key i) p = digit (key j) p := BitVec.eq_of_toNat_eq (by omega)
  have hij : ¬ i < j := fun hlt => hij (.inr ⟨hdigit, hlt⟩)
  have hji : ¬ j < i := fun hlt => hji (.inr ⟨hdigit.symm, hlt⟩)
  omega

/-- Settles O45: the positions stay below n, and the order of the elements tells them apart. -/
theorem stablePositionsAreAPermutation : Obligations.StablePositionsAreAPermutation :=
  fun _ _ _ => ⟨fun _ hi => stablePos_lt hi, fun _ hi _ hj h => stablePos_injective hi hj h⟩

/-! # The frame of a scatter, whatever its outcome -/

theorem Memory.StoredAt.eq_of_none {P : Nat → Prop} {m n : Memory} (h : Memory.StoredAt P m n) (hP : ∀ i, ¬ P i) :
    n = m := by
  obtain ⟨ws, hws, rfl⟩ := h
  cases ws with
  | nil => rfl
  | cons x ws => exact absurd (hws x (by simp)) (hP x.1)

theorem source_ne_hist (p : Nat) : sourceKeys p ≠ .hist ∧ sourcePay p ≠ .hist := by
  unfold sourceKeys sourcePay
  split <;> simp

/-- A pass does not write its source (43_scatter.md R199). -/
theorem PassReach.source {s t : State} {p : Nat} (h : PassReach s p t) :
    memOf t (sourceKeys p) = memOf s (sourceKeys p) ∧ memOf t (sourcePay p) = memOf s (sourcePay p) := by
  obtain ⟨_, hkk, hkp, hpk, hpp⟩ := role_ne p
  obtain ⟨hk, hp⟩ := source_ne_hist p
  exact ⟨(h.memory _).eq_of_none fun i hi => by simp [passTarget, hk, hkk, hkp] at hi,
    (h.memory _).eq_of_none fun i hi => by simp [passTarget, hp, hpk, hpp] at hi⟩

/-- A pass that runs to its end was inside its bounds all the time. -/
theorem passReach_of_runToEnd {s t : State} {p : Nat} (hhost : s.host = [])
    (h : runToEnd (startScatter p s) = .next t) : PassReach s p t ∧ t.executing = none := by
  have hstart : PassReach s p (startScatter p s) :=
    ⟨.of_memOf_eq _ fun sp => by cases sp <;> rfl,
      .running _ rfl (startScatter_bounds p s) ⟨⟨rfl, rfl, rfl, rfl, rfl, rfl⟩, rfl, rfl, rfl, rfl⟩⟩
  exact ⟨runMoves_keeps (fun _ _ _ he hu hmove => hu.dispatchMove hhost he hmove) hstart h, runToEnd_ends h⟩

/-- With sizes that fit, the partition words of a pass lie in the partition region. -/
theorem PassReach.sameOutside_partitions {s t : State} {p : Nat} (h : PassReach s p t) (hmem : s.memOk = true)
    (hlegal : sizesLegal s = true) : sameOutside s t .hist 1024 (1024 + 256 * s.cfg.pMax) := by
  obtain ⟨_, _, hhist⟩ := h.frame hmem
  have hle : sortHistWords s.cfg s.paddedSize.toNat ≤ 1024 + 256 * s.cfg.pMax :=
    sortHistWords_le (sizesLegal_le_cap hlegal)
  exact fun a ha => hhist a (by omega)

/-- Settles O34: a discarded word sets CMD_ERR only, and a pass stores to its destination and partition words only. -/
theorem scatterNeverTouchesSourceOrRows : Obligations.ScatterNeverTouchesSourceOrRows := by
  intro s t hhost _ hmem
  refine ⟨fun h => ?_, fun h => ?_⟩
  · rcases exec_next h with rfl | ⟨_, ⟨_⟩, hlegal, hrun⟩
    · exact ⟨rfl, rfl, rfl, fun _ _ => rfl⟩
    · obtain ⟨hreach, hend⟩ := passReach_of_runToEnd hhost hrun
      have heven : evenPassIndex s % 2 = 0 := by simp [evenPassIndex]
      obtain ⟨hkeys, hpay, _, _⟩ := roles_even heven
      have hsource := hreach.source
      rw [hkeys, hpay] at hsource
      exact ⟨hsource.1, hsource.2, (hreach.counted hend).2.trans (if_pos heven),
        hreach.sameOutside_partitions hmem hlegal⟩
  · rcases exec_next h with rfl | ⟨_, ⟨_⟩, hlegal, hrun⟩
    · exact ⟨rfl, rfl, rfl, fun _ _ => rfl⟩
    · obtain ⟨hreach, hend⟩ := passReach_of_runToEnd hhost hrun
      have hodd : oddPassIndex s % 2 = 1 := by simp [oddPassIndex]
      obtain ⟨hkeys, hpay, _, _⟩ := roles_odd hodd
      have hsource := hreach.source
      rw [hkeys, hpay] at hsource
      exact ⟨hsource.1, hsource.2, (hreach.counted hend).1.trans (if_neg (by omega)),
        hreach.sameOutside_partitions hmem hlegal⟩

end Sys2Proof.Machine

namespace Sys2Proof.Machine

/-! # A scatter under every interleaving

Workgroup w stores the elements of its tile at the places that the stable counting sort gives them, because a resolved
lane's base is the number of elements before its tile's in the order of the sort. A lane gets that base by adding up the
words of the slots before its own, and every word that a pass can read at a slot is Invalid, the slot's own count as
Aggregate, or its inclusive total as Prefix, however old the word is (43_scatter.md R178 to R194). -/

/-! ## The totals of a pass -/

/-- What a pass p of s rests on: legal sizes, an exact row, and no word left over that a poll could take for one of this
pass. The words of the last workgroup are polled by nobody. -/
structure PassInput (s : State) (p : Nat) : Prop where
  memOk : s.memOk = true
  pass : p < 4
  cap : s.paddedSize.toNat ≤ s.cfg.cap
  whole : scatterGrid s.cfg s.paddedSize.toNat * s.cfg.tileS = s.paddedSize.toNat
  small : s.paddedSize.toNat ≤ Config.countMax
  row : rowExact s p
  invalid : ∀ w, w + 1 < scatterGrid s.cfg s.paddedSize.toNat → ∀ d < 256,
    (status (loadWord s .hist (pidx w d)) p).1 = .invalid

/-- The keys of tile w in the source of pass p. -/
def tileKeys (s : State) (p w : Nat) : List Word := (scatterTile s.cfg w).map (sourceKey s p)

/-- The number of elements of tile w with digit d. -/
def tileTotal (s : State) (p w d : Nat) : Nat := (tileKeys s p w).countP fun k => (digit k p).toNat == d

/-- The exclusive base of digit d for tile w: the elements that the sort puts before the tile's with this digit
(43_scatter.md R194). -/
def totalBefore (s : State) (p w d : Nat) : Nat :=
  countBelow (sourceKey s p) p s.paddedSize.toNat d + countDigit (sourceKey s p) p (w * s.cfg.tileS) d

theorem countDigit_add (key : Nat → Word) (p m n d : Nat) : countDigit key p (m + n) d
    = countDigit key p m d + (List.range n).countP fun i => (digit (key (m + i)) p).toNat == d := by
  rw [countDigit, List.range_add, List.countP_append, List.countP_map]
  rfl

theorem tileTotal_eq (s : State) (p w d : Nat) : tileTotal s p w d
    = (List.range s.cfg.tileS).countP fun o => (digit (sourceKey s p (w * s.cfg.tileS + o)) p).toNat == d := by
  rw [tileTotal, tileKeys, scatterTile, List.map_map, List.countP_map]
  rfl

theorem totalBefore_zero (s : State) (p d : Nat) :
    totalBefore s p 0 d = countBelow (sourceKey s p) p s.paddedSize.toNat d := by
  simp [totalBefore, countDigit]

theorem totalBefore_succ (s : State) (p w d : Nat) :
    totalBefore s p (w + 1) d = totalBefore s p w d + tileTotal s p w d := by
  rw [totalBefore, Nat.succ_mul, countDigit_add, tileTotal_eq, totalBefore, Nat.add_assoc]

theorem PassInput.grid_mul_le {s : State} {p w : Nat} (h : PassInput s p)
    (hw : w ≤ scatterGrid s.cfg s.paddedSize.toNat) : w * s.cfg.tileS ≤ s.paddedSize.toNat :=
  (Nat.mul_le_mul_right _ hw).trans_eq h.whole

theorem PassInput.totalBefore_le {s : State} {p w d : Nat} (h : PassInput s p)
    (hw : w ≤ scatterGrid s.cfg s.paddedSize.toNat) : totalBefore s p w d ≤ s.paddedSize.toNat :=
  calc totalBefore s p w d
      ≤ countBelow (sourceKey s p) p s.paddedSize.toNat d + countDigit (sourceKey s p) p s.paddedSize.toNat d :=
        Nat.add_le_add_left (countDigit_mono _ _ _ (h.grid_mul_le hw)) _
    _ = countBelow (sourceKey s p) p s.paddedSize.toNat (d + 1) := (countBelow_succ _ _ _ _).symm
    _ ≤ s.paddedSize.toNat := countBelow_le _ _ _ _

/-- Tile w and a position in it name an element. -/
theorem PassInput.element_lt {s : State} {p w o : Nat} (h : PassInput s p)
    (hw : w < scatterGrid s.cfg s.paddedSize.toNat) (ho : o < s.cfg.tileS) :
    w * s.cfg.tileS + o < s.paddedSize.toNat := by
  have hle := h.grid_mul_le (Nat.succ_le_of_lt hw)
  rw [Nat.succ_mul] at hle
  omega

/-- Every element lies in one of the tiles. -/
theorem PassInput.exists_tile {s : State} {p i : Nat} (h : PassInput s p) (hi : i < s.paddedSize.toNat) :
    ∃ w < scatterGrid s.cfg s.paddedSize.toNat, ∃ o < s.cfg.tileS, i = w * s.cfg.tileS + o := by
  have hi' : i < scatterGrid s.cfg s.paddedSize.toNat * s.cfg.tileS := h.whole.symm ▸ hi
  have hpos : 0 < s.cfg.tileS := Nat.pos_of_ne_zero fun h0 => by simp [h0] at hi'
  refine ⟨i / s.cfg.tileS, (Nat.div_lt_iff_lt_mul hpos).2 hi', i % s.cfg.tileS, Nat.mod_lt _ hpos, ?_⟩
  rw [Nat.mul_comm]
  exact (Nat.div_add_mod _ _).symm

/-- An element has one tile and one position in it. -/
theorem tile_unique {T w x o o' : Nat} (ho : o < T) (ho' : o' < T) (h : w * T + o = x * T + o') : w = x ∧ o = o' := by
  have hpos : 0 < T := by omega
  have hdiv := congrArg (· / T) h
  have hmod := congrArg (· % T) h
  simpa [Nat.mul_comm _ T, Nat.mul_add_div hpos, Nat.mul_add_mod, Nat.div_eq_of_lt, Nat.mod_eq_of_lt, ho, ho']
    using And.intro hdiv hmod

/-! ## The words a poll can read -/

theorem ofNat_toNat_le {n : Nat} (h : n ≤ Config.countMax) : (BitVec.ofNat 32 n).toNat ≤ Config.countMax :=
  (BitVec.toNat_ofNat n 32).trans_le ((Nat.mod_le _ _).trans h)

/-- A word that PIDX(w, d) may hold in pass p: Invalid, the tile's count as Aggregate, or its inclusive total as Prefix
(43_scatter.md R178, R179, R185). -/
def SlotWord (s : State) (p w d : Nat) (x : Word) : Prop :=
  (status x p).1 = .invalid ∨ x = psw (aggTag p) (BitVec.ofNat 32 (tileTotal s p w d))
    ∨ x = psw (preTag p) (BitVec.ofNat 32 (totalBefore s p (w + 1) d))

section SlotWord

variable {s : State} {p w d : Nat} {x c : Word} (hin : PassInput s p) (hw : w < scatterGrid s.cfg s.paddedSize.toNat)
  (hx : SlotWord s p w d x)
include hin hw

theorem status_aggregate_word : status (psw (aggTag p) (BitVec.ofNat 32 (tileTotal s p w d))) p
    = (.aggregate, BitVec.ofNat 32 (tileTotal s p w d)) := by
  have hle := hin.totalBefore_le (d := d) (Nat.succ_le_of_lt hw)
  rw [totalBefore_succ] at hle
  have hsmall := hin.small
  exact (rotatedTagsHideThePassBefore.1 p _ (ofNat_toNat_le (by omega))).1

theorem status_prefix_word : status (psw (preTag p) (BitVec.ofNat 32 (totalBefore s p (w + 1) d))) p
    = (.inclusive, BitVec.ofNat 32 (totalBefore s p (w + 1) d)) :=
  have hle := hin.totalBefore_le (d := d) (Nat.succ_le_of_lt hw)
  (rotatedTagsHideThePassBefore.1 p _ (ofNat_toNat_le (hle.trans hin.small))).2.1

include hx

/-- What a poll reads as Prefix is the slot's inclusive total. -/
theorem SlotWord.inclusive (h : status x p = (.inclusive, c)) : c = BitVec.ofNat 32 (totalBefore s p (w + 1) d) := by
  rcases hx with hx | rfl | rfl
  · simp [h] at hx
  · simp [status_aggregate_word hin hw] at h
  · rw [status_prefix_word hin hw] at h
    exact (Prod.mk.inj h).2.symm

/-- What a poll reads as Aggregate is the slot's own count. -/
theorem SlotWord.aggregate (h : status x p = (.aggregate, c)) : c = BitVec.ofNat 32 (tileTotal s p w d) := by
  rcases hx with hx | rfl | rfl
  · simp [h] at hx
  · rw [status_aggregate_word hin hw] at h
    exact (Prod.mk.inj h).2.symm
  · simp [status_prefix_word hin hw] at h

end SlotWord

theorem notReady_cases (budget retries : Nat) :
    notReady budget retries = .budget ∨ notReady budget retries = .contention := by
  unfold notReady
  split
  · exact .inl rfl
  · exact .inr rfl

/-- What an outcome says of the word read (43_scatter.md R185). -/
theorem pollOutcome_cases (p budget cursor retries : Nat) (v : Word) :
    (∃ c, status v p = (.inclusive, c) ∧ pollOutcome p budget cursor retries v = .resolve c)
      ∨ (∃ c, status v p = (.aggregate, c) ∧ 0 < cursor ∧ pollOutcome p budget cursor retries v = .advance c)
      ∨ pollOutcome p budget cursor retries v = .budget ∨ pollOutcome p budget cursor retries v = .contention := by
  obtain ⟨⟨st, c⟩, hst⟩ : ∃ x, status v p = x := ⟨_, rfl⟩
  have hlate : (st = .aggregate ∧ cursor = 0) ∨ st = .invalid ∨ st = .foreign →
      pollOutcome p budget cursor retries v = .budget ∨ pollOutcome p budget cursor retries v = .contention := by
    intro h
    rw [pollOutcome_of_notReady (c := c) (by simpa [hst] using h)]
    exact notReady_cases budget retries
  cases st with
  | inclusive => exact .inl ⟨c, hst, pollOutcome_of_inclusive hst⟩
  | aggregate =>
    rcases Nat.eq_zero_or_pos cursor with hzero | hpos
    · exact .inr (.inr (hlate (.inl ⟨rfl, hzero⟩)))
    · exact .inr (.inl ⟨c, hst, hpos, pollOutcome_of_aggregate hst hpos⟩)
  | invalid => exact .inr (.inr (hlate (.inr (.inl rfl))))
  | foreign => exact .inr (.inr (hlate (.inr (.inr rfl))))

/-! ## The middle of a pass -/

/-- Workgroup w has loaded and ranked its tile (43_scatter.md R174, R175, R177). -/
structure TileLoaded (s : State) (p w : Nat) (g : ScatterGroup) : Prop where
  kv : g.kv = tileKeys s p w
  pv : g.pv = (scatterTile s.cfg w).map (sourcePayload s p)
  kr : g.kr = tileRanks (tileDigits p (tileKeys s p w))
  digits : g.digits = tileDigits p (tileKeys s p w)
  counts : g.counts = tileCounts p (tileKeys s p w)

/-- The arrays that LOAD and the ranking within the tile fill. -/
def ScatterGroup.arrays (g : ScatterGroup) : List Word × List Word × List Word × List Word × List Word :=
  (g.kv, g.pv, g.kr, g.digits, g.counts)

theorem TileLoaded.congr {s : State} {p w : Nat} {g g' : ScatterGroup} (h : TileLoaded s p w g)
    (harrays : g'.arrays = g.arrays) : TileLoaded s p w g' := by
  simp only [ScatterGroup.arrays, Prod.mk.injEq] at harrays
  obtain ⟨hkv, hpv, hkr, hdigits, hcounts⟩ := harrays
  exact ⟨hkv.trans h.kv, hpv.trans h.pv, hkr.trans h.kr, hdigits.trans h.digits, hcounts.trans h.counts⟩

/-- The sums of lane (w, d): a base read or resolved is the exclusive base of the tile, and while the lane walks what it
has added up is what lies between the slot it polls and its tile (43_scatter.md R179, R185). -/
structure LaneSums (s : State) (p w d : Nat) (excl : Word) (l : Lane) : Prop where
  base : l.lstate = .based ∨ l.lstate = .resolved → excl = BitVec.ofNat 32 (totalBefore s p w d)
  walk : l.lstate = .walking →
    l.acc + BitVec.ofNat 32 (totalBefore s p (l.cursor + 1) d) = BitVec.ofNat 32 (totalBefore s p w d)

/-- The place of element i of pass p in the destination. -/
abbrev placeOf (s : State) (p i : Nat) : Nat := stablePos (sourceKey s p) p s.paddedSize.toNat i

/-- The place of element i holds in u what it held in s. -/
def unplaced (s u : State) (p i : Nat) : Prop :=
  loadWord u (destKeys p) (placeOf s p i) = loadWord s (destKeys p) (placeOf s p i)
    ∧ loadWord u (destPay p) (placeOf s p i) = loadWord s (destPay p) (placeOf s p i)

/-- Workgroup w of pass p of s, in state u: what it has loaded, its lanes' sums, the words its lanes' slots hold or
held, and its elements' destinations, written exactly once it is DONE. -/
structure TileShape (s : State) (p : Nat) (u : State) (w : Nat) (g : ScatterGroup) : Prop where
  loaded : g.phase ≠ .load → TileLoaded s p w g
  sums : ∀ (d : Nat) (l : Lane), g.lanes[d]? = some l → LaneSums s p w d (arrayAt g.excl d) l
  words : w + 1 < scatterGrid s.cfg s.paddedSize.toNat → ∀ (d : Nat) (l : Lane), g.lanes[d]? = some l →
    ∀ x ∈ loadWord u .hist (pidx w d) :: l.older, SlotWord s p w d x
  placed : g.phase = .done → ∀ o < s.cfg.tileS, placedRight s u p (w * s.cfg.tileS + o)
  unplaced : g.phase ≠ .done → ∀ o < s.cfg.tileS, unplaced s u p (w * s.cfg.tileS + o)

/-- Every workgroup of a running pass has its shape. -/
def TileShapes (s : State) (p : Nat) (u : State) (run : ScatterRun) : Prop :=
  ∀ (w : Nat) (g : ScatterGroup), run.groups[w]? = some g → TileShape s p u w g

/-- SORT_FAILED in a pass: as it was, or set by a lane of a second workgroup; and where it is 0 nobody has stored to it
or failed (43_scatter.md R184, R186). -/
structure FlagShape (s u : State) (run : ScatterRun) : Prop where
  flag : u.sortFailed = s.sortFailed ∨ (u.sortFailed = 1 ∧ 1 < run.groups.length)
  clean : u.sortFailed = 0 → run.failedOlder = [] ∧ ∀ g ∈ run.groups, g.scatterFailed = false

/-- u is a state in the middle of pass p of s. -/
structure ScatterRunning (s : State) (p : Nat) (u : State) (run : ScatterRun) : Prop where
  executing : u.executing = some (.scatter run)
  bounds : ScatterBounds s.cfg p s.paddedSize.toNat run
  registers : SameRegisters s u
  memory : StoresAt (passTarget s p) s u
  shape : ScatterShape u run
  tiles : TileShapes s p u run
  flags : FlagShape s u run

/-- The scatter that t executes, if it executes one, has its tiles and flags in shape. -/
def Placing (s : State) (p : Nat) (t : State) : Prop :=
  ∀ run, t.executing = some (.scatter run) → TileShapes s p t run ∧ FlagShape s t run

theorem loadWord_congr {u v : State} {sp : Space} (h : memOf v sp = memOf u sp) (i : Nat) :
    loadWord v sp i = loadWord u sp i := congrArg (Memory.readWord · i) h

theorem loadWord_setScatter (s : State) (run : ScatterRun) (sp : Space) :
    loadWord (setScatter s run) sp = loadWord s sp := funext (loadWord_congr (memOf_setScatter s run sp))

theorem DrawsFrom.loadWord {u v : State} (h : DrawsFrom u v) (sp : Space) :
    Machine.loadWord v sp = Machine.loadWord u sp := funext (loadWord_congr (h.memOf sp))

/-- The places of the elements of tile x hold in v what they hold in u. -/
def TileKept (s : State) (p x : Nat) (u v : State) : Prop :=
  ∀ o < s.cfg.tileS, ∀ sp, sp = destKeys p ∨ sp = destPay p →
    loadWord v sp (placeOf s p (x * s.cfg.tileS + o)) = loadWord u sp (placeOf s p (x * s.cfg.tileS + o))

theorem tileKept_of_memOf {s u v : State} {p x : Nat} (h : ∀ sp, sp ≠ .hist → memOf v sp = memOf u sp) :
    TileKept s p x u v := by
  rintro _ _ sp (rfl | rfl)
  · exact loadWord_congr (h _ (dest_ne_hist p).1) _
  · exact loadWord_congr (h _ (dest_ne_hist p).2) _

/-- A workgroup keeps its shape while its partition words and its elements' destinations stay. -/
theorem TileShape.congr {s u v : State} {p w : Nat} {g : ScatterGroup} (h : TileShape s p u w g)
    (hwords : ∀ (d : Nat) (l : Lane), g.lanes[d]? = some l →
      loadWord v .hist (pidx w d) = loadWord u .hist (pidx w d))
    (hdest : TileKept s p w u v) : TileShape s p v w g where
  loaded := h.loaded
  sums := h.sums
  words := fun hw d l hl => by
    rw [hwords d l hl]
    exact h.words hw d l hl
  placed := fun hph o ho =>
    have ⟨hkey, hpay⟩ := h.placed hph o ho
    ⟨(hdest o ho _ (.inl rfl)).trans hkey, (hdest o ho _ (.inr rfl)).trans hpay⟩
  unplaced := fun hph o ho =>
    have ⟨hkey, hpay⟩ := h.unplaced hph o ho
    ⟨(hdest o ho _ (.inl rfl)).trans hkey, (hdest o ho _ (.inr rfl)).trans hpay⟩

theorem TileShape.of_loadWord {s u v : State} {p w : Nat} {g : ScatterGroup} (h : TileShape s p u w g)
    (hload : ∀ sp, loadWord v sp = loadWord u sp) : TileShape s p v w g :=
  h.congr (fun _ _ _ => congrFun (hload _) _) fun _ _ _ _ => congrFun (hload _) _

theorem ScatterRunning.after_draws {s u v : State} {p : Nat} {run : ScatterRun} (h : ScatterRunning s p u run)
    (hd : DrawsFrom u v) : ScatterRunning s p v run where
  executing := hd.executing.trans h.executing
  bounds := h.bounds
  registers := h.registers.trans hd.sameRegisters
  memory := h.memory.trans (hd.storesAt _)
  shape := h.shape.after_draws hd
  tiles := fun w g hg => (h.tiles w g hg).of_loadWord hd.loadWord
  flags := ⟨hd.sortFailed ▸ h.flags.flag, hd.sortFailed ▸ h.flags.clean⟩

theorem loadWord_startScatter (p : Nat) (s : State) (sp : Space) : loadWord (startScatter p s) sp = loadWord s sp :=
  funext (loadWord_congr (by cases sp <;> rfl))

theorem startScatter_tile {s : State} {p w : Nat} (hin : PassInput s p) {g : ScatterGroup}
    (hg : (startGroups s)[w]? = some g) : TileShape s p (startScatter p s) w g := by
  obtain ⟨_, rfl⟩ := startGroups_getElem? hg
  have hlane : ∀ {d : Nat} {l : Lane}, (scatterGroupStart s w).lanes[d]? = some l → d < 256 ∧ l = laneStart w := by
    intro d l hl
    have hd : d < 256 := (List.getElem?_eq_some_iff.1 hl).1.trans_eq List.length_replicate
    exact ⟨hd, scatterGroupStart_lane (List.mem_of_getElem? hl)⟩
  refine ⟨fun hph => absurd rfl hph, fun d l hl => ?_, fun hw d l hl x hx => ?_,
    fun hph => absurd (show ScatterPhase.load = .done from hph) nofun, fun _ _ _ => ⟨?_, ?_⟩⟩
  · obtain ⟨_, rfl⟩ := hlane hl
    exact ⟨by simp [laneStart], by simp [laneStart]⟩
  · obtain ⟨hd, rfl⟩ := hlane hl
    obtain rfl : x = loadWord (startScatter p s) .hist (pidx w d) := by simpa [laneStart] using hx
    exact .inl (hin.invalid w hw d hd)
  · exact congrFun (loadWord_startScatter p s _) _
  · exact congrFun (loadWord_startScatter p s _) _

theorem startScatter_running {s : State} {p : Nat} (hin : PassInput s p) : ScatterRunning s p (startScatter p s)
    { pass := p, size := s.paddedSize.toNat, groups := startGroups s, failedOlder := [] } where
  executing := rfl
  bounds := startScatter_bounds p s
  registers := ⟨⟨rfl, rfl, rfl, rfl, rfl, rfl⟩, rfl, rfl, rfl, rfl⟩
  memory := .of_memOf_eq _ fun sp => by cases sp <;> rfl
  shape := by
    obtain ⟨run, hrun, _, _, _, _, _, _, hfits, hwords⟩ := startedScatterHasItsShape s p
    obtain rfl := Executing.scatter.inj (Option.some.inj ((startScatter_executing p s).symm.trans hrun))
    exact scatterShape_iff.2 ⟨hfits, hwords⟩
  tiles := fun _ _ hg => startScatter_tile hin hg
  flags := by
    refine ⟨.inl rfl, fun _ => ⟨rfl, fun g hg => ?_⟩⟩
    obtain ⟨w, hw⟩ := List.mem_iff_getElem?.1 hg
    obtain ⟨_, rfl⟩ := startGroups_getElem? hw
    rfl

theorem ScatterRunning.group_lt {s u : State} {p w : Nat} {run : ScatterRun} {g : ScatterGroup}
    (h : ScatterRunning s p u run) (hg : run.groups[w]? = some g) : w < scatterGrid s.cfg s.paddedSize.toNat :=
  h.bounds.group_lt hg

theorem ScatterRunning.reach {s u : State} {p : Nat} {run : ScatterRun} (h : ScatterRunning s p u run) :
    PassReach s p u := ⟨h.memory, .running run h.executing h.bounds h.registers⟩

theorem ScatterRunning.wf {s u : State} {p : Nat} {run : ScatterRun} (h : ScatterRunning s p u run)
    (hin : PassInput s p) (sp : Space) : Memory.wf (memOf u sp) = true :=
  (h.memory sp).wf ((memOk_iff s).1 hin.memOk sp).1

/-- A pass reads its source as it was at the start. -/
theorem ScatterRunning.source {s u : State} {p : Nat} {run : ScatterRun} (h : ScatterRunning s p u run) :
    loadWord u (sourceKeys p) = sourceKey s p ∧ loadWord u (sourcePay p) = sourcePayload s p := by
  exact ⟨funext (loadWord_congr h.reach.source.1), funext (loadWord_congr h.reach.source.2)⟩

theorem loadWord_of_sameOutside {s t : State} {sp : Space} {lo hi i : Nat} (h : sameOutside s t sp lo hi)
    (hi : i < lo ∨ hi ≤ i) : loadWord t sp i = loadWord s sp i := by
  simp only [loadWord, Memory.readWord_eq]
  rw [h _ (by omega), h _ (by omega), h _ (by omega), h _ (by omega)]

/-- No pass writes a row. -/
theorem ScatterRunning.row {s u : State} {p : Nat} {run : ScatterRun} (h : ScatterRunning s p u run)
    (hin : PassInput s p) {q d : Nat} (hq : q < 4) (hd : d < 256) :
    loadWord u .hist (hidx q d) = loadWord s .hist (hidx q d) := by
  refine loadWord_of_sameOutside (h.reach.frame hin.memOk).2.2 (.inl ?_)
  simp only [hidx]
  omega

/-! ## What a move needs to keep the tiles in shape -/

section Moves

variable {s u v : State} {p w : Nat} {run : ScatterRun} {g g' : ScatterGroup}

theorem FlagShape.setGroup (h : FlagShape s u run) (hg : run.groups[w]? = some g) (hflag : v.sortFailed = u.sortFailed)
    (hlost : u.sortFailed = 0 → g'.scatterFailed = g.scatterFailed) : FlagShape s v (run.setGroup w g') where
  flag := by simpa [hflag, ScatterRun.setGroup] using h.flag
  clean := fun hzero => by
    rw [hflag] at hzero
    obtain ⟨holder, hall⟩ := h.clean hzero
    refine ⟨holder, fun x hx => ?_⟩
    rcases List.mem_or_eq_of_mem_set hx with hx | rfl
    · exact hall x hx
    · exact (hlost hzero).trans (hall g (List.mem_of_getElem? hg))

/-- Workgroup w replaced by one in shape, the words and the elements of the others kept. -/
theorem ScatterRunning.placing {d : Nat} {older : List Word} (h : ScatterRunning s p u run)
    (hwords : OtherWordsKept w d u v)
    (hdest : ∀ x ≠ w, x < scatterGrid s.cfg s.paddedSize.toNat → TileKept s p x u v) (hg' : TileShape s p v w g')
    (hflags : FlagShape s v { run.setGroup w g' with failedOlder := older }) :
    Placing s p (setScatter v { run.setGroup w g' with failedOlder := older }) := by
  intro run' hrun
  obtain rfl := Executing.scatter.inj (Option.some.inj hrun)
  refine ⟨fun x g₁ hx => ?_, ⟨hflags.flag, hflags.clean⟩⟩
  have hx : (run.groups.set w g')[x]? = some g₁ := hx
  refine TileShape.of_loadWord (u := v) ?_ (loadWord_setScatter v _)
  by_cases hxw : x = w
  · subst hxw
    obtain ⟨hlt, hset⟩ := List.getElem?_eq_some_iff.1 hx
    rw [List.getElem_set_self] at hset
    exact hset ▸ hg'
  · rw [List.getElem?_set_ne (Ne.symm hxw)] at hx
    exact (h.tiles x g₁ hx).congr (fun e l hl => hwords x e ((h.shape x g₁ hx).lane_lt hl) fun heq => hxw heq.1)
      (hdest x hxw (h.group_lt hx))

end Moves

end Sys2Proof.Machine

namespace Sys2Proof.Machine

/-! ## Moves of a lane -/

section Lane

variable {s u v t : State} {p w d : Nat} {run : ScatterRun} {g g' : ScatterGroup} {l l' : Lane}

theorem TileLoaded.count (h : TileLoaded s p w g) (hd : d < 256) :
    arrayAt g.counts d = BitVec.ofNat 32 (tileTotal s p w d) := by
  rw [h.counts, tileCounts, arrayAt_map_range hd]
  rfl

/-- A workgroup whose lane d moved keeps its shape when the lane's new sums and words are right. -/
theorem TileShape.laneStep (h : TileShape s p u w g) (hl : g.lanes[d]? = some l) (hstep : LaneStep d l' g g')
    (harrays : g'.arrays = g.arrays) (hmem : ∀ sp, sp ≠ .hist → memOf v sp = memOf u sp)
    (hother : ∀ e, g.lanes[e]? ≠ none → e ≠ d → loadWord v .hist (pidx w e) = loadWord u .hist (pidx w e))
    (hsums : LaneSums s p w d (arrayAt g'.excl d) l')
    (hwords : w + 1 < scatterGrid s.cfg s.paddedSize.toNat →
      ∀ x ∈ loadWord v .hist (pidx w d) :: l'.older, SlotWord s p w d x) : TileShape s p v w g' := by
  have hlane : ∀ {e : Nat} {m : Lane}, g'.lanes[e]? = some m → (e = d ∧ m = l') ∨ (e ≠ d ∧ g.lanes[e]? = some m) := by
    intro e m hm
    rw [hstep.lanes] at hm
    by_cases hed : e = d
    · subst hed
      rw [List.getElem?_set_self (List.getElem?_eq_some_iff.1 hl).1] at hm
      exact .inl ⟨rfl, (Option.some.inj hm).symm⟩
    · rw [List.getElem?_set_ne (Ne.symm hed)] at hm
      exact .inr ⟨hed, hm⟩
  refine ⟨fun hph => (h.loaded (hstep.phase ▸ hph)).congr harrays, fun e m hm => ?_, fun hw e m hm => ?_,
    fun hph o ho => ?_, fun hph o ho => ?_⟩
  · rcases hlane hm with ⟨rfl, rfl⟩ | ⟨hed, hm⟩
    · exact hsums
    · rw [hstep.excl e hed]
      exact h.sums e m hm
  · rcases hlane hm with ⟨rfl, rfl⟩ | ⟨hed, hm⟩
    · exact hwords hw
    · rw [hother e (by simp [hm]) hed]
      exact h.words hw e m hm
  · obtain ⟨hkey, hpay⟩ := h.placed (hstep.phase ▸ hph) o ho
    have hkept := tileKept_of_memOf (s := s) (p := p) (x := w) hmem o ho
    exact ⟨(hkept _ (.inl rfl)).trans hkey, (hkept _ (.inr rfl)).trans hpay⟩
  · obtain ⟨hkey, hpay⟩ := h.unplaced (hstep.phase ▸ hph) o ho
    have hkept := tileKept_of_memOf (s := s) (p := p) (x := w) hmem o ho
    exact ⟨(hkept _ (.inl rfl)).trans hkey, (hkept _ (.inr rfl)).trans hpay⟩

/-- A move of a lane keeps the pass in shape when it changes HIST at the lane's own word at most, and the lane's new
sums and words are right. -/
theorem ScatterRunning.placing_lane {older : List Word} (h : ScatterRunning s p u run) (hg : run.groups[w]? = some g)
    (hl : g.lanes[d]? = some l) (hstep : LaneStep d l' g g') (harrays : g'.arrays = g.arrays)
    (hmem : ∀ sp, sp ≠ .hist → memOf v sp = memOf u sp) (hother : OtherWordsKept w d u v)
    (hsums : LaneSums s p w d (arrayAt g'.excl d) l')
    (hwords : w + 1 < scatterGrid s.cfg s.paddedSize.toNat →
      ∀ x ∈ loadWord v .hist (pidx w d) :: l'.older, SlotWord s p w d x)
    (hflags : FlagShape s v { run.setGroup w g' with failedOlder := older }) :
    Placing s p (setScatter v { run.setGroup w g' with failedOlder := older }) := by
  refine h.placing hother (fun x _ _ => tileKept_of_memOf hmem)
    ((h.tiles w g hg).laneStep hl hstep harrays hmem (fun e he hed => ?_) hsums hwords) hflags
  obtain ⟨m, hm⟩ := Option.ne_none_iff_exists'.1 he
  exact hother w e ((h.shape w g hg).lane_lt hm) fun heq => hed heq.2

theorem memOf_publishWord (u : State) (w d : Nat) (x : Word) {sp : Space} (h : sp ≠ .hist) :
    memOf (publishWord u w d x) sp = memOf u sp := memOf_setMem_other u _ h

/-- A lane that publishes a word of its slot: what the word held joins the lane's older words. -/
theorem ScatterRunning.words_publish (h : ScatterRunning s p u run) (hin : PassInput s p)
    (hg : run.groups[w]? = some g) (hl : g.lanes[d]? = some l) {x : Word} (hx : SlotWord s p w d x) {m : Lane}
    (holder : m.older = loadWord u .hist (pidx w d) :: l.older) :
    w + 1 < scatterGrid s.cfg s.paddedSize.toNat →
      ∀ y ∈ loadWord (publishWord u w d x) .hist (pidx w d) :: m.older, SlotWord s p w d y := by
  intro hw y hy
  rw [loadWord_publishWord (h.wf hin .hist), if_pos rfl, holder] at hy
  rcases List.mem_cons.1 hy with rfl | hy
  · exact hx
  · exact (h.tiles w g hg).words hw d l hl y hy

section Publish

variable (h : ScatterRunning s p u run) (hin : PassInput s p) (hg : run.groups[w]? = some g)
  (hl : g.lanes[d]? = some l)
include h hin hg hl

/-- PUBLISH of workgroup 0, first half: the base of its tile is the row's word (43_scatter.md R179). -/
theorem readBase_placing (hw : w = 0) (hmove : readBase run w d g l u = .next t) : Placing s p t := by
  obtain ⟨_, hmove⟩ := guardSpace_next.1 hmove
  obtain rfl := Host.Outcome.next.inj hmove
  have hshape := h.shape w g hg
  have hd := hshape.lane_lt hl
  refine h.placing_lane hg hl (laneStep_setExcl g rfl _) rfl
    (fun _ _ => rfl) (otherWordsKept_of_hist rfl w d) ⟨fun _ => ?_, nofun⟩
    (fun hw => (h.tiles w g hg).words hw d l hl) (h.flags.setGroup hg rfl fun _ => rfl)
  rw [arrayAt_set_same (hshape.excl.symm ▸ hd), h.bounds.pass, h.row hin hin.pass hd, hin.row d hd, hw,
    totalBefore_zero]

/-- PUBLISH of workgroup 0, second half: base plus count is the tile's inclusive total (R179). -/
theorem publishFirst_placing (hph : g.phase = .publish) (hls : l.lstate = .based)
    (hmove : publishFirst run w d g l u = .next t) : Placing s p t := by
  obtain ⟨_, hmove⟩ := guardSpace_next.1 hmove
  obtain rfl := Host.Outcome.next.inj hmove
  have hd := (h.shape w g hg).lane_lt hl
  have hbase := ((h.tiles w g hg).sums d l hl).base (.inl hls)
  have hcount := ((h.tiles w g hg).loaded (by simp [hph])).count hd
  have hword : psw (preTag run.pass) (arrayAt g.excl d + arrayAt g.counts d)
      = psw (preTag p) (BitVec.ofNat 32 (totalBefore s p (w + 1) d)) := by
    rw [hbase, hcount, h.bounds.pass, totalBefore_succ, BitVec.ofNat_add]
  exact h.placing_lane hg hl (laneStep_setLane g rfl)
    rfl
    (fun _ => memOf_publishWord u w d _) (otherWordsKept_publishWord (h.wf hin .hist) hd _) ⟨fun _ => hbase, nofun⟩
    (h.words_publish hin hg hl (.inr (.inr hword)) rfl) (h.flags.setGroup hg (by simp [publishWord]) fun _ => rfl)

/-- PUBLISH of a workgroup above 0: the tile's count as Aggregate (R178). -/
theorem publishAggregate_placing (hph : g.phase = .publish) (hmove : publishAggregate run w d g l u = .next t) :
    Placing s p t := by
  obtain ⟨_, hmove⟩ := guardSpace_next.1 hmove
  obtain rfl := Host.Outcome.next.inj hmove
  have hd := (h.shape w g hg).lane_lt hl
  have hcount := ((h.tiles w g hg).loaded (by simp [hph])).count hd
  have hword : psw (aggTag run.pass) (arrayAt g.counts d)
      = psw (aggTag p) (BitVec.ofNat 32 (tileTotal s p w d)) := by rw [hcount, h.bounds.pass]
  exact h.placing_lane hg hl (laneStep_setLane g rfl)
    rfl
    (fun _ => memOf_publishWord u w d _) (otherWordsKept_publishWord (h.wf hin .hist) hd _) ⟨nofun, nofun⟩
    (h.words_publish hin hg hl (.inr (.inl hword)) rfl) (h.flags.setGroup hg (by simp [publishWord]) fun _ => rfl)

theorem publishMove_placing (hph : g.phase = .publish) (hpub : l.publishing = true)
    (hmove : publishMove run w d g l u = .next t) : Placing s p t := by
  unfold publishMove at hmove
  split at hmove
  case h_1 hls =>
    split at hmove
    · next hw => exact readBase_placing h hin hg hl hw hmove
    · exact publishAggregate_placing h hin hg hl hph hmove
  case h_2 hls => exact publishFirst_placing h hin hg hl hph hls hmove
  case h_3 hwait hbased =>
    rcases (Lane.publishing_iff l).1 hpub with hls | hls
    · exact absurd hls hwait
    · exact absurd hls hbased

end Publish

/-- The outcome of a poll is right: a Prefix is the slot's inclusive total, an Aggregate its own count. -/
structure OutcomeRight (s : State) (p d : Nat) (l : Lane) (o : PollOutcome) : Prop where
  resolve : ∀ c, o = .resolve c → c = BitVec.ofNat 32 (totalBefore s p (l.cursor + 1) d)
  advance : ∀ c, o = .advance c → 0 < l.cursor ∧ c = BitVec.ofNat 32 (tileTotal s p l.cursor d)

/-- A poll that stores no partition word and leaves SORT_FAILED: the lane walks on with right sums, or it is lost where
SORT_FAILED is set. -/
theorem ScatterRunning.placing_poll (h : ScatterRunning s p u run) (hg : run.groups[w]? = some g)
    (hl : g.lanes[d]? = some l) (hstep : LaneStep d l' g g') (harrays : g'.arrays = g.arrays)
    (holder : l'.older = l.older) (hsums : LaneSums s p w d (arrayAt g'.excl d) l')
    (hlost : u.sortFailed = 0 → l'.lost = false) : Placing s p (setScatter u (run.setGroup w g')) := by
  refine h.placing_lane hg hl hstep harrays (fun _ _ => rfl) (otherWordsKept_of_hist rfl w d) hsums (fun hw => ?_)
    (h.flags.setGroup hg rfl fun hzero => by simp [hstep.flag, hlost hzero])
  rw [holder]
  exact (h.tiles w g hg).words hw d l hl

theorem outcomeRight_of_slotWord (hin : PassInput s p) (hcur : l.cursor < scatterGrid s.cfg s.paddedSize.toNat)
    {x : Word} (hx : SlotWord s p l.cursor d x) (budget retries : Nat) :
    OutcomeRight s p d l (pollOutcome p budget l.cursor retries x) := by
  rcases pollOutcome_cases p budget l.cursor retries x with ⟨c, hst, ho⟩ | ⟨c, hst, hpos, ho⟩ | ho | ho <;> rw [ho]
  · exact ⟨fun _ hc => PollOutcome.resolve.inj hc ▸ hx.inclusive hin hcur hst, nofun⟩
  · exact ⟨nofun, fun _ hc => ⟨hpos, PollOutcome.advance.inj hc ▸ hx.aggregate hin hcur hst⟩⟩
  · exact ⟨nofun, nofun⟩
  · exact ⟨nofun, nofun⟩

section Poll

variable (h : ScatterRunning s p u run) (hin : PassInput s p) (hg : run.groups[w]? = some g)
  (hl : g.lanes[d]? = some l) (hwalk : Walking u p w d g l)
include h hg hl hwalk

/-- What a walking lane has added up so far, with the totals before the slot it polls next, is its base. -/
theorem walking_sum : l.acc + BitVec.ofNat 32 (totalBefore s p (l.cursor + 1) d)
    = BitVec.ofNat 32 (totalBefore s p w d) := ((h.tiles w g hg).sums d l hl).walk hwalk.state

/-- The soft failure: only a lane of a second workgroup can set SORT_FAILED (43_scatter.md R186). -/
theorem failLookback_placing {i j : Nat}
    (hmove : failLookback run w d g { l with seenSlot := i, seenFailed := j } u = .next t) : Placing s p t := by
  obtain rfl := Host.Outcome.next.inj hmove
  have hw : w < run.groups.length := (List.getElem?_eq_some_iff.1 hg).1
  have hpos := hwalk.group
  refine h.placing_lane hg hl (laneStep_lost g rfl)
    rfl (fun sp _ => by cases sp <;> rfl)
    (otherWordsKept_of_hist rfl w d) ⟨nofun, nofun⟩ (fun hw => (h.tiles w g hg).words hw d l hl)
    ⟨.inr ⟨rfl, ?_⟩, fun hzero => ?_⟩
  · simp only [ScatterRun.setGroup, List.length_set]
    omega
  · exact absurd (show (1 : Word) = 0 from hzero) (by decide)

/-- The values that the slot's load may answer are words of the slot. -/
theorem slotWord_of_mem {x : Word}
    (hx : x ∈ loadWord u .hist (pidx l.cursor d) :: slotOlder run l.cursor d) : SlotWord s p l.cursor d x := by
  have hw := h.group_lt hg
  have hcur := hwalk.cursor
  have hd := (h.shape w g hg).lane_lt hl
  have hlt : l.cursor < run.groups.length := hcur.trans (List.getElem?_eq_some_iff.1 hg).1
  have hslot : run.groups[l.cursor]? = some run.groups[l.cursor] := List.getElem?_eq_getElem hlt
  have hlanes := (h.shape _ _ hslot).lanes
  have hlane : run.groups[l.cursor].lanes[d]? = some run.groups[l.cursor].lanes[d] :=
    List.getElem?_eq_getElem (hlanes.symm ▸ hd)
  refine (h.tiles _ _ hslot).words (by omega) d _ hlane x ?_
  simpa only [slotOlder, hslot, hlane] using hx

include hin

/-- The lane resolves: what it added up with the slot's inclusive total is its base (R185). -/
theorem resolveLane_placing {i j : Nat} {c : Word} (hc : c = BitVec.ofNat 32 (totalBefore s p (l.cursor + 1) d))
    (hmove : resolveLane run w d g { l with seenSlot := i, seenFailed := j } c u = .next t) : Placing s p t := by
  obtain ⟨_, hmove⟩ := guardSpace_next.1 hmove
  obtain rfl := Host.Outcome.next.inj hmove
  have hshape := h.shape w g hg
  have hd := hshape.lane_lt hl
  have hcount := ((h.tiles w g hg).loaded (by simp [hwalk.phase])).count hd
  have hbase : l.acc + c = BitVec.ofNat 32 (totalBefore s p w d) := hc ▸ walking_sum h hg hl hwalk
  have hword : psw (preTag run.pass) (l.acc + c + arrayAt g.counts d)
      = psw (preTag p) (BitVec.ofNat 32 (totalBefore s p (w + 1) d)) := by
    rw [hbase, hcount, h.bounds.pass, totalBefore_succ, BitVec.ofNat_add]
  refine h.placing_lane hg hl (laneStep_setExcl g rfl _)
    rfl
    (fun _ => memOf_publishWord u w d _) (otherWordsKept_publishWord (h.wf hin .hist) hd _) ⟨fun _ => ?_, nofun⟩
    (h.words_publish hin hg hl (.inr (.inr hword)) rfl) (h.flags.setGroup hg (by simp [publishWord]) fun _ => rfl)
  exact (arrayAt_set_same (hshape.excl.symm ▸ hd) _).trans hbase

theorem actOnOutcome_placing {i j : Nat} {o : PollOutcome} (ho : OutcomeRight s p d l o)
    (hmove : actOnOutcome run w d g { l with seenSlot := i, seenFailed := j } u o = .next t) : Placing s p t := by
  cases o with
  | resolve c => exact resolveLane_placing h hin hg hl hwalk (ho.resolve c rfl) hmove
  | budget => exact failLookback_placing h hg hl hwalk hmove
  | contention =>
    obtain rfl := Host.Outcome.next.inj hmove
    have hls := hwalk.state
    exact h.placing_poll hg hl (laneStep_setLane g (by simp [Lane.lost, hls])) 
      rfl rfl
      ⟨((h.tiles w g hg).sums d l hl).base, ((h.tiles w g hg).sums d l hl).walk⟩ (by simp [Lane.lost, hls])
  | advance c =>
    obtain rfl := Host.Outcome.next.inj hmove
    obtain ⟨hpos, hc⟩ := ho.advance c rfl
    have hls := hwalk.state
    refine h.placing_poll hg hl (laneStep_setLane g (by simp [Lane.lost, hls]))
      rfl rfl
      ⟨((h.tiles w g hg).sums d l hl).base, fun _ => ?_⟩ (by simp [Lane.lost, hls])
    have hsum := walking_sum h hg hl hwalk
    rw [totalBefore_succ, Nat.add_comm (totalBefore _ _ _ _), BitVec.ofNat_add] at hsum
    change l.acc + c + BitVec.ofNat 32 (totalBefore s p (l.cursor - 1 + 1) d) = _
    rw [Nat.sub_add_cancel hpos, hc, BitVec.add_assoc, hsum]

theorem poll_placing (hmove : poll run w d g l u = .next t) : Placing s p t := by
  have hd₁ := loadCoherent_draws u.sortFailed run.failedOlder l.seenFailed u
  by_cases hclear : (loadCoherent u.sortFailed run.failedOlder l.seenFailed u).2.1 = 0
  · rw [poll_eq_pollSlot hclear] at hmove
    generalize (loadCoherent u.sortFailed run.failedOlder l.seenFailed u).1 = j at hmove
    generalize (loadCoherent u.sortFailed run.failedOlder l.seenFailed u).2.2 = u₁ at hmove hd₁
    have h₁ := h.after_draws hd₁
    have hwalk₁ := hwalk.after_draws hd₁
    obtain ⟨hslot, _⟩ := guardSpace_next.1 hmove
    rw [pollSlot_eq_actOnOutcome (hslot _ (by simp)) rfl rfl] at hmove
    have hd₂ := loadCoherent_draws (loadWord u₁ .hist (pidx l.cursor d)) (slotOlder run l.cursor d) l.seenSlot u₁
    have hread := slotWord_of_mem h₁ hg hl hwalk₁ (List.mem_of_getElem?
      (loadCoherent_value (loadWord u₁ .hist (pidx l.cursor d)) (slotOlder run l.cursor d) l.seenSlot u₁))
    have hcur : l.cursor < scatterGrid s.cfg s.paddedSize.toNat := hwalk.cursor.trans (h.group_lt hg)
    rw [h.bounds.pass] at hmove
    exact actOnOutcome_placing (h₁.after_draws hd₂) hin hg hl (hwalk₁.after_draws hd₂)
      (outcomeRight_of_slotWord hin hcur hread _ _) hmove
  · have hpoll : poll run w d g l u = _ := if_pos hclear
    rw [hpoll] at hmove
    obtain rfl := Host.Outcome.next.inj hmove
    refine (h.after_draws hd₁).placing_poll hg hl (laneStep_lost g rfl)
      rfl rfl ⟨nofun, nofun⟩ fun hzero => ?_
    rw [hd₁.sortFailed] at hzero
    obtain ⟨hnil, _⟩ := h.flags.clean hzero
    have hread := List.mem_of_getElem? (loadCoherent_value u.sortFailed run.failedOlder l.seenFailed u)
    rw [hnil, hzero] at hread hclear
    exact absurd (List.mem_singleton.1 hread) hclear

end Poll

theorem laneMove_placing (h : ScatterRunning s p u run) (hin : PassInput s p) (hg : run.groups[w]? = some g)
    (hl : g.lanes[d]? = some l) (hact : l.active g.phase) (hmove : laneMove run w d g l u = .next t) :
    Placing s p t := by
  rcases hact with ⟨hph, hpub⟩ | ⟨hph, hpoll⟩
  · simp only [laneMove, hph] at hmove
    exact publishMove_placing h hin hg hl hph hpub hmove
  · simp only [laneMove, hph] at hmove
    exact poll_placing h hin hg hl (h.bounds.pass ▸ (h.shape w g hg).walking hl hph hpoll) hmove

end Lane

end Sys2Proof.Machine

namespace Sys2Proof.Machine

/-! ## Moves of a workgroup as a whole -/

section Group

variable {s u t : State} {p w : Nat} {run : ScatterRun} {g g' : ScatterGroup}

/-- A workgroup that goes on, with no partition word and nothing of the destination stored. -/
theorem ScatterRunning.placing_phase (h : ScatterRunning s p u run) (hg : run.groups[w]? = some g)
    (hflag : g'.scatterFailed = g.scatterFailed) (hg' : TileShape s p u w g') :
    Placing s p (setScatter u (run.setGroup w g')) :=
  h.placing (d := 0) (fun _ _ _ _ => rfl) (fun _ _ _ _ _ _ _ => rfl) hg' (h.flags.setGroup hg rfl fun _ => hflag)

variable (h : ScatterRunning s p u run) (hg : run.groups[w]? = some g)
include h hg

/-- LOAD and the ranking fill the arrays from the source, which the pass does not write (43_scatter.md R174). -/
theorem scatterLoad_placing (hph : g.phase = .load) (hmove : scatterLoad run w g u = .next t) : Placing s p t := by
  obtain ⟨_, hmove⟩ := guardSpace_next.1 hmove
  obtain ⟨_, hmove⟩ := guardSpace_next.1 hmove
  obtain rfl := Host.Outcome.next.inj hmove
  obtain ⟨hkeys, hpays⟩ := h.source
  have htile := h.tiles w g hg
  have hcfg := h.registers.cfg
  refine h.placing_phase hg rfl ⟨fun _ => ?_, htile.sums, htile.words, nofun, fun _ => htile.unplaced (by simp [hph])⟩
  rw [h.bounds.pass, hkeys, hpays, hcfg]
  exact ⟨rfl, rfl, rfl, rfl, rfl⟩

/-- The barrier after PUBLISH: a lane that starts to walk has added up nothing, and polls the slot before its own
(R178). -/
theorem publishBarrier_placing (hph : g.phase = .publish) (hmove : publishBarrier run w g u = .next t) :
    Placing s p t := by
  obtain rfl := Host.Outcome.next.inj hmove
  have htile := h.tiles w g hg
  have hloaded := htile.loaded (by simp [hph])
  have hunplaced := htile.unplaced (by simp [hph])
  split
  · exact h.placing_phase hg rfl
      ⟨fun _ => hloaded.congr rfl, htile.sums, htile.words, nofun, fun _ => hunplaced⟩
  · next hw =>
    have hlane : ∀ {d : Nat} {m : Lane}, (g.lanes.map fun l => l.startWalk w)[d]? = some m →
        ∃ l, g.lanes[d]? = some l ∧ m = l.startWalk w := by
      intro d m hm
      rw [List.getElem?_map, Option.map_eq_some_iff] at hm
      obtain ⟨l, hl, rfl⟩ := hm
      exact ⟨l, hl, rfl⟩
    refine h.placing_phase hg rfl
      ⟨fun _ => hloaded.congr rfl, fun d m hm => ?_, fun hw d m hm => ?_, nofun, fun _ => hunplaced⟩
    · obtain ⟨l, _, rfl⟩ := hlane hm
      refine ⟨nofun, fun _ => ?_⟩
      change 0 + BitVec.ofNat 32 (totalBefore s p (w - 1 + 1) d) = _
      rw [Nat.sub_add_cancel (Nat.pos_of_ne_zero hw), zero_add]
    · obtain ⟨l, hl, rfl⟩ := hlane hm
      exact htile.words hw d l hl

theorem lookbackBarrier_placing (hph : g.phase = .lookback) (hmove : lookbackBarrier run w g u = .next t) :
    Placing s p t := by
  obtain rfl := Host.Outcome.next.inj hmove
  have htile := h.tiles w g hg
  have hnext : (if g.scatterFailed then ScatterPhase.failed else .write) ≠ .done := by split <;> nofun
  exact h.placing_phase hg rfl ⟨fun _ => (htile.loaded (by simp [hph])).congr rfl, htile.sums, htile.words,
    fun hdone => absurd hdone hnext, fun _ => htile.unplaced (by simp [hph])⟩

end Group

/-! ## WRITE -/

/-- A base and a 1-based rank, less 1 (43_scatter.md R189). -/
theorem base_add_rank {a r : Nat} (h : a + r < 2 ^ 32) :
    (BitVec.ofNat 32 a + BitVec.ofNat 32 (1 + r) - 1).toNat = a + r := by
  have hsum : BitVec.ofNat 32 a + BitVec.ofNat 32 (1 + r) - 1 = BitVec.ofNat 32 (a + r) := by
    rw [Nat.add_comm 1 r, BitVec.ofNat_add r 1, ← BitVec.add_assoc, BitVec.ofNat_add a r]
    exact BitVec.add_sub_cancel _ _
  rw [hsum, BitVec.toNat_ofNat, Nat.mod_eq_of_lt h]

theorem tileDigits_eq (s : State) (p w : Nat) : tileDigits p (tileKeys s p w)
    = (List.range s.cfg.tileS).map fun o => digit (sourceKey s p (w * s.cfg.tileS + o)) p := by
  rw [tileDigits, tileKeys, scatterTile, List.map_map, List.map_map]
  rfl

section Write

variable {s u t : State} {p w o : Nat} {run : ScatterRun} {g : ScatterGroup}

section Loaded

variable (hload : TileLoaded s p w g) (ho : o < s.cfg.tileS)
include hload ho

theorem TileLoaded.key : arrayAt g.kv o = sourceKey s p (w * s.cfg.tileS + o) := by
  rw [hload.kv, tileKeys, scatterTile, List.map_map]
  exact arrayAt_map_range ho

theorem TileLoaded.pay : arrayAt g.pv o = sourcePayload s p (w * s.cfg.tileS + o) := by
  rw [hload.pv, scatterTile, List.map_map]
  exact arrayAt_map_range ho

theorem TileLoaded.digit : arrayAt g.digits o = Machine.digit (sourceKey s p (w * s.cfg.tileS + o)) p := by
  rw [hload.digits, tileDigits_eq]
  exact arrayAt_map_range ho

/-- The rank of position o: one more than the elements of the tile before it with its digit (R175). -/
theorem TileLoaded.rank {d : Nat} (hd : (Machine.digit (sourceKey s p (w * s.cfg.tileS + o)) p).toNat = d) :
    arrayAt g.kr o = BitVec.ofNat 32 (1 + (List.range o).countP fun i =>
      (Machine.digit (sourceKey s p (w * s.cfg.tileS + i)) p).toNat == d) := by
  have hlen : (tileDigits p (tileKeys s p w)).length = s.cfg.tileS := by simp [tileDigits_eq]
  rw [hload.kr, tileRanks, hlen, arrayAt_map_range ho, rankAt, tileDigits_eq, arrayAt_map_range ho, ← List.map_take,
    List.take_range, Nat.min_eq_left ho.le, List.count_eq_countP, List.countP_map]
  congr 2
  refine List.countP_congr fun i _ => ?_
  simp [← hd, BitVec.toNat_inj]

end Loaded

/-- In WRITE every lane of the workgroup is resolved (R188). -/
theorem ScatterRunning.excl_of_write (h : ScatterRunning s p u run) (hg : run.groups[w]? = some g)
    (hph : g.phase = .write) {d : Nat} (hd : d < 256) :
    arrayAt g.excl d = BitVec.ofNat 32 (totalBefore s p w d) := by
  have hshape := h.shape w g hg
  have hl : g.lanes[d]? = some (g.lanes[d]'(hshape.lanes.symm ▸ hd)) := List.getElem?_eq_getElem _
  have hfits := hshape.fits d _ hl
  simp only [laneFits, hph, Bool.and_eq_true, beq_iff_eq] at hfits
  exact ((h.tiles w g hg).sums d _ hl).base (.inr hfits.1)

/-- In WRITE the destination index of a position is the place of its element (R193, R194). -/
theorem ScatterRunning.dstAt_of_write (h : ScatterRunning s p u run) (hin : PassInput s p)
    (hg : run.groups[w]? = some g) (hph : g.phase = .write) (ho : o < s.cfg.tileS) :
    dstAt g o = placeOf s p (w * s.cfg.tileS + o) := by
  have hload := (h.tiles w g hg).loaded (by simp [hph])
  have hlt : placeOf s p (w * s.cfg.tileS + o) < s.paddedSize.toNat := stablePos_lt (hin.element_lt (h.group_lt hg) ho)
  have hplace : placeOf s p (w * s.cfg.tileS + o)
      = totalBefore s p w (digit (sourceKey s p (w * s.cfg.tileS + o)) p).toNat
        + (List.range o).countP fun i => (digit (sourceKey s p (w * s.cfg.tileS + i)) p).toNat
            == (digit (sourceKey s p (w * s.cfg.tileS + o)) p).toNat := by
    rw [placeOf, stablePos, countDigit_add, totalBefore, Nat.add_assoc]
  have hsize := s.paddedSize.isLt
  rw [hplace] at hlt ⊢
  rw [dstAt, hload.digit ho, hload.rank ho rfl, h.excl_of_write hg hph (Nat.lt_succ_of_le (digit_le _ _))]
  exact base_add_rank (by omega)

/-- The words after the stores of a tile: an element's at its own index, every other as before. -/
theorem loadWord_placeAll {ps : List Placed} (hps : ps.Perm (stored u.cfg run g))
    (hwf : ∀ sp, Memory.wf (memOf u sp) = true) (p : Nat) :
    (∀ o < u.cfg.tileS, dstAt g o < run.size → (∀ o' < u.cfg.tileS, dstAt g o' = dstAt g o → o' = o) →
      loadWord (placeAll u p ps) (destKeys p) (dstAt g o) = arrayAt g.kv o
        ∧ loadWord (placeAll u p ps) (destPay p) (dstAt g o) = arrayAt g.pv o) ∧
    ∀ j, (∀ o < u.cfg.tileS, dstAt g o ≠ j) → ∀ sp, sp = destKeys p ∨ sp = destPay p →
      loadWord (placeAll u p ps) sp j = loadWord u sp j := by
  have hmiss : ∀ {j : Nat} {f : Placed → Word}, (∀ o < u.cfg.tileS, dstAt g o ≠ j) →
      ∀ y ∈ ps.map fun x => (x.index, f x), y.1 ≠ j := by
    intro j f hj y hy
    obtain ⟨x, hx, rfl⟩ := List.mem_map.1 hy
    obtain ⟨o, ho, _, rfl⟩ := mem_stored_iff.1 (hps.mem_iff.1 hx)
    exact hj o ho
  simp only [loadWord]
  refine ⟨fun o ho hlt huniq => ⟨?_, ?_⟩, ?_⟩
  · rw [memOf_placeAll_keys]
    exact readWord_writeWords_stored hps (hwf _) ho hlt huniq
  · rw [memOf_placeAll_pay]
    exact readWord_writeWords_stored hps (hwf _) ho hlt huniq
  · rintro j hj sp (rfl | rfl)
    · rw [memOf_placeAll_keys]
      exact Memory.readWord_writeWords_other (hwf _) (hmiss hj)
    · rw [memOf_placeAll_pay]
      exact Memory.readWord_writeWords_other (hwf _) (hmiss hj)

/-- WRITE stores every element of the tile at its place, and nothing at the places of other elements (R190). -/
theorem scatterWrite_placing (h : ScatterRunning s p u run) (hin : PassInput s p) (hg : run.groups[w]? = some g)
    (hph : g.phase = .write) (hmove : scatterWrite run w g u = .next t) : Placing s p t := by
  obtain ⟨ps, u', hd, hps, rfl⟩ := scatterWrite_next hmove
  have h' := h.after_draws hd
  have hload := (h.tiles w g hg).loaded (by simp [hph])
  have hw := h.group_lt hg
  have hcfg : u'.cfg = s.cfg := h'.registers.cfg
  have hdst : ∀ o < s.cfg.tileS, dstAt g o = placeOf s p (w * s.cfg.tileS + o) :=
    fun o ho => h.dstAt_of_write hin hg hph ho
  have hplace : ∀ {x o o' : Nat}, x < scatterGrid s.cfg s.paddedSize.toNat → o < s.cfg.tileS → o' < s.cfg.tileS →
      placeOf s p (w * s.cfg.tileS + o') = placeOf s p (x * s.cfg.tileS + o) → w = x ∧ o' = o :=
    fun hx ho ho' heq => tile_unique ho' ho
      (stablePos_injective (hin.element_lt hw ho') (hin.element_lt hx ho) heq)
  obtain ⟨hsame, hother⟩ := loadWord_placeAll (hd.sameRegisters.cfg ▸ hps) (fun sp => h'.wf hin sp) p
  rw [hcfg] at hsame hother
  rw [h.bounds.pass]
  refine h'.placing (d := 0) (older := run.failedOlder)
    (fun _ _ _ _ => loadWord_hist_congr (placeAll_hist u' p ps) _) (fun x hxw hx o ho => ?_)
    ⟨fun _ => hload.congr rfl, (h.tiles w g hg).sums, fun hlt d l hl => ?_, fun _ o ho => ?_, fun hne => absurd rfl hne⟩
    (h'.flags.setGroup hg (by simp [placeAll]) fun _ => rfl)
  · refine hother _ fun o' ho' heq => ?_
    rw [hdst o' ho'] at heq
    exact hxw (hplace hx ho ho' heq).1.symm
  · rw [loadWord_hist_congr (placeAll_hist u' p ps)]
    exact (h'.tiles w g hg).words hlt d l hl
  · have hlt : dstAt g o < run.size := by
      rw [hdst o ho, h.bounds.size]
      exact stablePos_lt (hin.element_lt hw ho)
    have hstored := hsame o ho hlt fun o' ho' heq => by
      rw [hdst o ho, hdst o' ho'] at heq
      exact (hplace hw ho ho' heq).2
    rwa [hdst o ho, hload.key ho, hload.pay ho] at hstored

theorem scatterGroupMove_placing (h : ScatterRunning s p u run) (hin : PassInput s p) (hg : run.groups[w]? = some g)
    (hready : g.ready) (hmove : scatterGroupMove run w g u = .next t) : Placing s p t := by
  rcases hready with hph | hph | ⟨hph, _⟩ | ⟨hph, _⟩ <;> simp only [scatterGroupMove, hph] at hmove
  · exact scatterLoad_placing h hg hph hmove
  · exact scatterWrite_placing h hin hg hph hmove
  · exact publishBarrier_placing h hg hph hmove
  · exact lookbackBarrier_placing h hg hph hmove

end Write

/-! ## The pass as a whole, with its data -/

/-- Every move of an agent of the scatter leads to a state in the middle of the pass again. -/
theorem ScatterRunning.agentMove {s u t : State} {p : Nat} {run : ScatterRun} {a : Agent}
    (h : ScatterRunning s p u run) (hin : PassInput s p) (ha : a ∈ dispatchAgents (.scatter run))
    (hmove : agentMove (.scatter run) a u = .next t) : ∃ run', ScatterRunning s p t run' := by
  have hshaped : Shaped t := scatterAgent_shaped h.shape (h.wf hin .hist) ha hmove
  have hplacing : Placing s p t := by
    obtain ⟨w, g, hg, ha'⟩ := mem_dispatchAgents_scatter_iff.1 ha
    rcases mem_scatterGroupAgents ha' with ⟨rfl, _, _⟩ | ⟨d, l, rfl, hl, hact⟩
    · simp only [Machine.agentMove, groupMove, hg] at hmove
      exact scatterGroupMove_placing h hin hg (group_mem_scatterGroupAgents.1 ha').2 hmove
    · simp only [Machine.agentMove, digitLaneMove, hg, hl] at hmove
      exact laneMove_placing h hin hg hl hact hmove
  obtain ⟨w, g, hg, hstep⟩ := scatterAgent_step ha hmove
  obtain ⟨g', older, ht, hgroup⟩ := hstep.dispatch
  obtain ⟨htiles, hflags⟩ := hplacing _ ht
  exact ⟨_, ht, h.bounds.setGroup hg hgroup, h.registers.trans hstep.registers,
    h.memory.trans (hstep.memory.mono fun _ _ hi => scatterTarget_passTarget h.bounds hg hi.2), hshaped _ ht, htiles,
    hflags⟩

/-- The completion of pass p (44_orchestrator.md R227). -/
def passDone (p : Nat) (u : State) : State := if p % 2 = 0 then scatterEvenDone u else scatterOddDone u

/-- A state that pass p of s can reach: in the middle, or completed once every workgroup is terminal. -/
inductive ScatterReach (s : State) (p : Nat) : State → Prop where
  | running (u : State) (run : ScatterRun) (middle : ScatterRunning s p u run) : ScatterReach s p u
  | ended (u : State) (run : ScatterRun) (last : ScatterRunning s p u run)
      (terminal : ∀ g ∈ run.groups, g.phase = .done ∨ g.phase = .failed) : ScatterReach s p (passDone p u)

theorem passDone_executing (p : Nat) (u : State) : (passDone p u).executing = none := by
  unfold passDone
  split <;> rfl

/-- A pass always has a move, which leads to a state it can reach. -/
theorem ScatterReach.dispatchMove {s u : State} {p : Nat} {e : Executing} (h : ScatterReach s p u)
    (hin : PassInput s p) (hhost : s.host = []) (he : u.executing = some e) :
    ∃ t, Machine.dispatchMove e u = .next t ∧ ScatterReach s p t := by
  cases h with
  | ended u run last => simp [passDone_executing] at he
  | running _ run middle =>
    obtain rfl := Option.some.inj (middle.executing.symm.trans he)
    refine dispatchMove_leadsTo he (middle.registers.host.trans hhost) (fun hnone => ?_) fun a ha u' hd => ?_
    · refine ⟨_, rfl, ?_⟩
      rw [middle.bounds.pass]
      exact .ended _ _ middle (dispatchAgents_scatter_eq_nil.1 hnone)
    · have hcfg := (middle.after_draws hd).registers.cfg
      obtain ⟨t, hmove⟩ := scatterAgent_total (s := u') (hcfg ▸ middle.bounds) hin.pass (hcfg ▸ hin.cap) ha
      obtain ⟨_, ht⟩ := (middle.after_draws hd).agentMove hin ha hmove
      exact ⟨t, hmove, .running _ _ ht⟩

/-- A pass runs until every workgroup is terminal, and completes (43_scatter.md R200). -/
theorem pass_ends {s : State} {p : Nat} (hin : PassInput s p) (hhost : s.host = []) :
    ∃ u run, runToEnd (startScatter p s) = .next (passDone p u) ∧ ScatterRunning s p u run
      ∧ ∀ g ∈ run.groups, g.phase = .done ∨ g.phase = .failed := by
  obtain ⟨t, hrun, ht⟩ := runMoves_total (P := ScatterReach s p) (fun u e hu he => hu.dispatchMove hin hhost he)
    (remainingMoves (startScatter p s)) (.running _ _ (startScatter_running hin))
  cases ht with
  | running _ _ middle =>
    have hend := runToEnd_ends hrun
    simp [middle.executing] at hend
  | ended _ _ last terminal => exact ⟨_, _, hrun, last, terminal⟩

end Sys2Proof.Machine

namespace Sys2Proof.Machine

/-! # What a pass leaves -/

/-- An injective map of the first n numbers to themselves permutes them. -/
theorem map_range_perm {n : Nat} {f : Nat → Nat} (hlt : ∀ i < n, f i < n)
    (hinj : ∀ i < n, ∀ j < n, f i = f j → i = j) : ((List.range n).map f).Perm (List.range n) := by
  have hnodup : ((List.range n).map f).Nodup := List.nodup_range.map_on fun i hi j hj =>
    hinj i (List.mem_range.1 hi) j (List.mem_range.1 hj)
  have hsub : (List.range n).map f ⊆ List.range n := fun j hj => by
    obtain ⟨i, hi, rfl⟩ := List.mem_map.1 hj
    exact List.mem_range.2 (hlt i (List.mem_range.1 hi))
  exact (List.subperm_of_subset hnodup hsub).perm_of_length_le (by simp)

/-- Every position of the destination is some element's place (43_scatter.md R194). -/
theorem exists_placeOf (s : State) (p : Nat) {j : Nat} (hj : j < s.paddedSize.toNat) :
    ∃ i < s.paddedSize.toNat, placeOf s p i = j := by
  have hperm := map_range_perm (f := placeOf s p) (fun _ hi => stablePos_lt hi)
    fun _ hi _ hj => stablePos_injective hi hj
  obtain ⟨i, hi, rfl⟩ := List.mem_map.1 (hperm.mem_iff.2 (List.mem_range.2 hj))
  exact ⟨i, List.mem_range.1 hi, rfl⟩

section Ended

variable {s u : State} {p : Nat} {run : ScatterRun} (h : ScatterRunning s p u run) (hin : PassInput s p)
  (hterm : ∀ g ∈ run.groups, g.phase = .done ∨ g.phase = .failed)
include h

/-- Each tile of the pass is that of a workgroup. -/
theorem ScatterRunning.exists_group {w : Nat} (hw : w < scatterGrid s.cfg s.paddedSize.toNat) :
    ∃ g, g ∈ run.groups ∧ run.groups[w]? = some g :=
  have hlt : w < run.groups.length := h.bounds.groups.symm ▸ hw
  ⟨run.groups[w], List.getElem_mem hlt, List.getElem?_eq_getElem hlt⟩

include hterm in
/-- Where SORT_FAILED is 0 at the end no workgroup failed (43_scatter.md R186, R188). -/
theorem ScatterRunning.done_of_clean (hclean : u.sortFailed = 0) : ∀ g ∈ run.groups, g.phase = .done := by
  intro g hg
  refine (hterm g hg).resolve_right fun hfailed => ?_
  obtain ⟨w, hw⟩ := List.mem_iff_getElem?.1 hg
  have hset := (h.shape w g hw).failed hfailed
  rw [(h.flags.clean hclean).2 g hg] at hset
  exact absurd hset (by decide)

include hterm in
/-- Workgroup 0 does not look back, so a single workgroup does not fail (R197). -/
theorem ScatterRunning.done_of_single (hone : scatterGrid s.cfg s.paddedSize.toNat = 1) :
    ∀ g ∈ run.groups, g.phase = .done := by
  intro g hg
  refine (hterm g hg).resolve_right fun hfailed => ?_
  obtain ⟨w, hw⟩ := List.mem_iff_getElem?.1 hg
  have hshape := h.shape w g hw
  have hzero : w = 0 := by
    have hlt := h.group_lt hw
    omega
  have hl : g.lanes[0]? = some (g.lanes[0]'(by simp [hshape.lanes])) := List.getElem?_eq_getElem _
  have hfits := hshape.fits 0 _ hl
  simp [laneFits, hfailed, hzero] at hfits

include hin hterm in
/-- At the end every element is at its place, or its place is as it was (R199). -/
theorem ScatterRunning.placed_or_unplaced {i : Nat} (hi : i < s.paddedSize.toNat) :
    placedRight s u p i ∨ unplaced s u p i := by
  obtain ⟨w, hw, o, ho, rfl⟩ := hin.exists_tile hi
  obtain ⟨g, hmem, hg⟩ := h.exists_group hw
  rcases hterm g hmem with hph | hph
  · exact .inl ((h.tiles w g hg).placed hph o ho)
  · exact .inr ((h.tiles w g hg).unplaced (by simp [hph]) o ho)

variable (hdone : ∀ g ∈ run.groups, g.phase = .done)
include hdone

/-- Once every workgroup is DONE every partition word is the inclusive total of its tile (R185, R199). -/
theorem ScatterRunning.word_of_done {w d : Nat} (hw : w < scatterGrid s.cfg s.paddedSize.toNat) (hd : d < 256) :
    loadWord u .hist (pidx w d) = psw (preTag p) (BitVec.ofNat 32 (totalBefore s p (w + 1) d)) := by
  obtain ⟨g, hmem, hg⟩ := h.exists_group hw
  have hph := hdone g hmem
  have hshape := h.shape w g hg
  have hl : g.lanes[d]? = some (g.lanes[d]'(hshape.lanes.symm ▸ hd)) := List.getElem?_eq_getElem _
  have hfits := hshape.fits d _ hl
  simp only [laneFits, hph, Bool.and_eq_true, beq_iff_eq] at hfits
  have hword := hshape.words d _ hl
  simp only [laneWordFits, hfits.1, Bool.and_eq_true, beq_iff_eq] at hword
  have hcount := ((h.tiles w g hg).loaded (by simp [hph])).count hd
  rw [hword.1, ((h.tiles w g hg).sums d _ hl).base (.inr hfits.1), hcount, h.bounds.pass, totalBefore_succ,
    BitVec.ofNat_add]

include hin

theorem ScatterRunning.placed_of_done {i : Nat} (hi : i < s.paddedSize.toNat) : placedRight s u p i := by
  obtain ⟨w, hw, o, ho, rfl⟩ := hin.exists_tile hi
  obtain ⟨g, hmem, hg⟩ := h.exists_group hw
  exact (h.tiles w g hg).placed (hdone g hmem) o ho

end Ended

/-! ## The completion -/

theorem passDone_even {p : Nat} (h : p % 2 = 0) (u : State) : passDone p u = scatterEvenDone u := if_pos h

theorem passDone_odd {p : Nat} (h : p % 2 = 1) (u : State) : passDone p u = scatterOddDone u := if_neg (by omega)

theorem memOf_passDone (p : Nat) (u : State) (sp : Space) : memOf (passDone p u) sp = memOf u sp := by
  unfold passDone
  split <;> cases sp <;> rfl

theorem loadWord_passDone (p : Nat) (u : State) (sp : Space) (i : Nat) :
    loadWord (passDone p u) sp i = loadWord u sp i := loadWord_congr (memOf_passDone p u sp) i

/-- A completion writes its pass counter and PHASE only. -/
theorem passDone_registers (p : Nat) (u : State) : SameBus u (passDone p u) ∧ (passDone p u).cmdErr = u.cmdErr
    ∧ (passDone p u).sortFailed = u.sortFailed := by
  unfold passDone
  split <;> exact ⟨⟨rfl, rfl, rfl, rfl, rfl, rfl⟩, rfl, rfl⟩

theorem placedRight_passDone {s u : State} {p i : Nat} (h : placedRight s u p i) :
    placedRight s (passDone p u) p i := by
  simpa only [placedRight, loadWord_passDone] using h

theorem sameOutside_passDone {s u : State} {p lo hi : Nat} {sp : Space} (h : sameOutside s u sp lo hi) :
    sameOutside s (passDone p u) sp lo hi := by
  simpa only [sameOutside, memOf_passDone] using h

/-- What a pass that started with SORT_FAILED = 0 leaves. -/
theorem ScatterRunning.passResult {s u : State} {p : Nat} {run : ScatterRun} (h : ScatterRunning s p u run)
    (hin : PassInput s p) (hterm : ∀ g ∈ run.groups, g.phase = .done ∨ g.phase = .failed)
    (hclear : s.sortFailed = 0) : PassResult s (passDone p u) p := by
  obtain ⟨hbus, herr, hflag⟩ := passDone_registers p u
  have hbus := h.registers.toSameBus.trans hbus
  obtain ⟨hkeys, hpays, hhist⟩ := h.reach.frame hin.memOk
  obtain ⟨hsourceKeys, hsourcePay⟩ := h.reach.source
  refine ⟨passDone_executing p u, ⟨hbus.cfg, hbus.numKeys, hbus.paddedSize, herr.trans h.registers.cmdErr, hbus.queue,
    hbus.host, hbus.reads⟩, ⟨(memOf_passDone _ _ _).trans hsourceKeys, (memOf_passDone _ _ _).trans hsourcePay⟩,
    ⟨sameOutside_passDone hkeys, sameOutside_passDone hpays⟩, sameOutside_passDone hhist, ?_, fun hzero i hi => ?_,
    fun hzero w hw d hd => ?_, fun _ j hj => ?_⟩
  · rw [hflag, ← hclear]
    exact h.flags.flag.imp_right And.left
  · exact placedRight_passDone (h.placed_of_done hin (h.done_of_clean hterm (hflag ▸ hzero)) hi)
  · rw [loadWord_passDone, h.word_of_done (h.done_of_clean hterm (hflag ▸ hzero)) hw hd, hin.row d hd, totalBefore,
      BitVec.ofNat_add]
  · obtain ⟨i, hi, rfl⟩ := exists_placeOf s p hj
    rcases h.placed_or_unplaced hin hterm hi with hplaced | ⟨hkey, hpay⟩
    · exact .inr ⟨i, hi, rfl, placedRight_passDone hplaced⟩
    · exact .inl ⟨(loadWord_passDone _ _ _ _).trans hkey, (loadWord_passDone _ _ _ _).trans hpay⟩

/-! ## Passes from states that meet the invariant -/

theorem passInput {s : State} {p : Nat} (hwf : s.cfg.wf = true) (hmem : s.memOk = true) (hlegal : sizesLegal s = true)
    (hp : p < 4) (hrow : rowExact s p)
    (hinvalid : ∀ w, w + 1 < scatterGrid s.cfg s.paddedSize.toNat → ∀ d < 256,
      (status (loadWord s .hist (pidx w d)) p).1 = .invalid) : PassInput s p where
  memOk := hmem
  pass := hp
  cap := sizesLegal_le_cap hlegal
  whole := by
    simp only [sizesLegal, Bool.and_eq_true, beq_iff_eq] at hlegal
    exact Nat.div_mul_cancel (Nat.dvd_of_mod_eq_zero hlegal.1.2)
  small := by
    simp only [Config.wf, Config.capOk, Bool.and_eq_true, decide_eq_true_eq] at hwf
    exact (sizesLegal_le_cap hlegal).trans hwf.1.2.2
  row := hrow
  invalid := hinvalid

/-- A pass of legal size over an exact row and Invalid partition words ends with its result. -/
theorem pass_result {s : State} {p : Nat} (hin : PassInput s p) (hhost : s.host = []) (hclear : s.sortFailed = 0) :
    ∃ u, runToEnd (startScatter p s) = .next (passDone p u) ∧ SameRegisters s u ∧ PassResult s (passDone p u) p := by
  obtain ⟨u, run, hrun, hlast, hterm⟩ := pass_ends hin hhost
  exact ⟨u, hrun, hlast.registers, hlast.passResult hin hterm hclear⟩

theorem scatterEvenAccepted_phase {s : State} (h : scatterEvenAccepted s = true) : s.phase = .scanned := by
  simp only [scatterEvenAccepted, Bool.and_eq_true, beq_iff_eq] at h
  exact h.1.1

theorem scatterOddAccepted_phase {s : State} (h : scatterOddAccepted s = true) : s.phase = .scanned := by
  simp only [scatterOddAccepted, Bool.and_eq_true, beq_iff_eq] at h
  exact h.1

/-- Settles O46: the pass ends in a state of ScatterRunning with every workgroup terminal; the even roles and
counter. -/
theorem scatterEvenPlacesEveryElement : Obligations.ScatterEvenPlacesEveryElement := by
  intro s hwf hhost hidle hinv hlegal hacc hclear hrow hinvalid
  obtain ⟨hexec, hp, _, _⟩ := exec_acceptedScatter (.inl ⟨rfl, hacc, rfl⟩) hidle hinv hlegal
  obtain ⟨hmem, _, _, _⟩ := (inv_iff s).1 hinv
  have hin := passInput hwf hmem hlegal hp hrow fun w hw => hinvalid w (by omega)
  obtain ⟨u, hrun, hreg, hresult⟩ := pass_result hin hhost hclear
  have heven : 2 * s.evenPass.toNat % 2 = 0 := by omega
  refine ⟨_, hexec.trans hrun, hresult, ?_, ?_, ?_⟩ <;> rw [passDone_even heven]
  · exact congrArg (· + 1) hreg.evenPass
  · exact hreg.oddPass
  · exact hreg.phase.trans (scatterEvenAccepted_phase hacc)

/-- Settles O47: the same of an odd pass, with its roles and counter. -/
theorem scatterOddPlacesEveryElement : Obligations.ScatterOddPlacesEveryElement := by
  intro s hwf hhost hidle hinv hlegal hacc hclear hrow hinvalid
  obtain ⟨hexec, hp, _, _⟩ := exec_acceptedScatter (.inr ⟨rfl, hacc, rfl⟩) hidle hinv hlegal
  obtain ⟨hmem, _, _, _⟩ := (inv_iff s).1 hinv
  have hin := passInput hwf hmem hlegal hp hrow fun w hw => hinvalid w (by omega)
  obtain ⟨u, hrun, hreg, hresult⟩ := pass_result hin hhost hclear
  have hodd : (2 * s.oddPass.toNat + 1) % 2 = 1 := by omega
  refine ⟨_, hexec.trans hrun, hresult, ?_, ?_, ?_⟩ <;> rw [passDone_odd hodd]
  · exact congrArg (· + 1) hreg.oddPass
  · exact hreg.evenPass
  · rw [scatterOddDone_phase, hreg.oddPass, hreg.phase, scatterOddAccepted_phase hacc]
    simp only [counter_succ_eq_two_iff]

/-! ## One partition -/

/-- With one partition nobody polls: the pass ends with SORT_FAILED as it was and every element placed, whatever the
partition words and SORT_FAILED are (43_scatter.md R197). -/
theorem onePartition_pass {s : State} {p : Nat} (hin : PassInput s p) (hhost : s.host = [])
    (hone : scatterGrid s.cfg s.paddedSize.toNat = 1) :
    ∃ u, runToEnd (startScatter p s) = .next (passDone p u) ∧ SameRegisters s u ∧ u.sortFailed = s.sortFailed
      ∧ ∀ i < s.paddedSize.toNat, placedRight s (passDone p u) p i := by
  obtain ⟨u, run, hrun, hlast, hterm⟩ := pass_ends hin hhost
  have hgroups := hlast.bounds.groups
  exact ⟨u, hrun, hlast.registers, hlast.flags.flag.resolve_right fun hset => by omega,
    fun i hi => placedRight_passDone (hlast.placed_of_done hin (hlast.done_of_single hterm hone) hi)⟩

theorem scatterGrid_eq_one {s : State} (hwf : s.cfg.wf = true) (hone : s.paddedSize.toNat = s.cfg.tileS) :
    scatterGrid s.cfg s.paddedSize.toNat = 1 := by
  rw [scatterGrid, hone, Nat.div_self (tiles_pos hwf).2]

/-- Settles O48: onePartition_pass, which asks nothing of the partition words. -/
theorem onePartitionPassCannotFail : Obligations.OnePartitionPassCannotFail := by
  intro s hwf hhost hidle hinv hlegal hsize
  have hone := scatterGrid_eq_one hwf hsize
  obtain ⟨hmem, _, _, _⟩ := (inv_iff s).1 hinv
  constructor
  · intro hacc hrow
    obtain ⟨hexec, hp, _, _⟩ := exec_acceptedScatter (.inl ⟨rfl, hacc, rfl⟩) hidle hinv hlegal
    have hin := passInput hwf hmem hlegal hp hrow fun w hw => by omega
    obtain ⟨u, hrun, hreg, hflag, hplaced⟩ := onePartition_pass hin hhost hone
    refine ⟨_, hexec.trans hrun, (passDone_registers _ u).2.2.trans hflag, ?_, hplaced⟩
    rw [passDone_even (by omega)]
    exact congrArg (· + 1) hreg.evenPass
  · intro hacc hrow
    obtain ⟨hexec, hp, _, _⟩ := exec_acceptedScatter (.inr ⟨rfl, hacc, rfl⟩) hidle hinv hlegal
    have hin := passInput hwf hmem hlegal hp hrow fun w hw => by omega
    obtain ⟨u, hrun, hreg, hflag, hplaced⟩ := onePartition_pass hin hhost hone
    refine ⟨_, hexec.trans hrun, (passDone_registers _ u).2.2.trans hflag, ?_, hplaced⟩
    rw [passDone_odd (by omega)]
    exact congrArg (· + 1) hreg.oddPass

end Sys2Proof.Machine

namespace Sys2Proof.Machine

/-! # Passes of a stable sort, one after the other

After k passes the elements lie in the order of their k low digits, and elements that agree in these in the order of the
input. After four passes that order is the stable order by key (40_digit_extractor.md R123, 43_scatter.md R195). -/

/-- Elements are in the order of their k low digits, then of their index in the input: f tells where the element with
index i in the input (key₀, pay₀) lies among the n elements (key, pay). -/
structure StablyPlaced (n k : Nat) (key₀ pay₀ key pay : Nat → Word) (f : Nat → Nat) : Prop where
  lt : ∀ i < n, f i < n
  key : ∀ i < n, key (f i) = key₀ i
  pay : ∀ i < n, pay (f i) = pay₀ i
  order : ∀ i < n, ∀ j < n, f i < f j ↔
    lowDigits (key₀ i) k < lowDigits (key₀ j) k ∨ lowDigits (key₀ i) k = lowDigits (key₀ j) k ∧ i < j

theorem lowDigits_succ_eq_iff (a b : Word) (n : Nat) : lowDigits a (n + 1) = lowDigits b (n + 1) ↔
    digit a n = digit b n ∧ lowDigits a n = lowDigits b n := by
  refine ⟨fun h => ?_, fun ⟨hdigit, hlow⟩ => by rw [lowDigits_succ, lowDigits_succ, hdigit, hlow]⟩
  have hab := (lowDigits_succ_lt_iff a b n).not.1 h.not_lt
  have hba := (lowDigits_succ_lt_iff b a n).not.1 h.not_gt
  have hdigit : digit a n = digit b n := BitVec.eq_of_toNat_eq (by omega)
  simp only [hdigit, true_and] at hab hba
  exact ⟨hdigit, by omega⟩

section StablyPlaced

variable {n k : Nat} {key₀ pay₀ key pay key' pay' : Nat → Word} {f : Nat → Nat}

/-- The input lies in its own order. -/
theorem stablyPlaced_input (hkey : ∀ i < n, key i = key₀ i) (hpay : ∀ i < n, pay i = pay₀ i) :
    StablyPlaced n 0 key₀ pay₀ key pay id where
  lt := fun _ hi => hi
  key := hkey
  pay := hpay
  order := fun _ _ _ _ => by simp [lowDigits_zero]

variable (h : StablyPlaced n k key₀ pay₀ key pay f)
include h

theorem StablyPlaced.injective {i j : Nat} (hi : i < n) (hj : j < n) (hf : f i = f j) : i = j := by
  have hij := (h.order i hi j hj).not.1 hf.not_lt
  have hji := (h.order j hj i hi).not.1 hf.not_gt
  omega

theorem StablyPlaced.perm : ((List.range n).map f).Perm (List.range n) :=
  map_range_perm h.lt fun _ hi _ hj => h.injective hi hj

/-- A counting sort by digit k keeps the order of the lower digits where digit k agrees. -/
theorem StablyPlaced.succ (hkey : ∀ i < n, key' (stablePos key k n i) = key i)
    (hpay : ∀ i < n, pay' (stablePos key k n i) = pay i) :
    StablyPlaced n (k + 1) key₀ pay₀ key' pay' fun i => stablePos key k n (f i) where
  lt := fun i hi => stablePos_lt (h.lt i hi)
  key := fun i hi => (hkey _ (h.lt i hi)).trans (h.key i hi)
  pay := fun i hi => (hpay _ (h.lt i hi)).trans (h.pay i hi)
  order := fun i hi j hj => by
    rw [stablePos_lt_iff (h.lt i hi) (h.lt j hj), h.order i hi j hj, h.key i hi, h.key j hj, lowDigits_succ_lt_iff,
      lowDigits_succ_eq_iff]
    tauto

/-- A count over the elements is the count over the input. -/
theorem StablyPlaced.countP (q : Word → Bool) :
    (List.range n).countP (fun i => q (key i)) = (List.range n).countP fun i => q (key₀ i) := by
  rw [← h.perm.countP_eq, List.countP_map]
  refine List.countP_congr fun i hi => ?_
  rw [Function.comp_apply, h.key i (List.mem_range.1 hi)]

theorem StablyPlaced.countBelow (p d : Nat) : countBelow key p n d = Machine.countBelow key₀ p n d :=
  h.countP fun x => decide ((digit x p).toNat < d)

end StablyPlaced

/-- The order by key of the stable sort. -/
def keyLE (a b : Word × Word) : Bool := decide (a.1 ≤ b.1)

theorem keyLE_trans (a b c : Word × Word) (hab : keyLE a b = true) (hbc : keyLE b c = true) : keyLE a c = true := by
  simp only [keyLE, decide_eq_true_eq, BitVec.le_def] at *
  omega

theorem keyLE_total (a b : Word × Word) : (keyLE a b || keyLE b a) = true := by
  simp only [keyLE, Bool.or_eq_true, decide_eq_true_eq, BitVec.le_def]
  omega

/-- The first n elements of a pair of arrays. -/
def elements (n : Nat) (key pay : Nat → Word) : List (Word × Word) := (List.range n).map fun i => (key i, pay i)

theorem mem_zipIdx_elements {n : Nat} {key pay : Nat → Word} {x : (Word × Word) × Nat}
    (h : x ∈ (elements n key pay).zipIdx) : x.2 < n ∧ x.1 = (key x.2, pay x.2) := by
  have hget := List.mem_zipIdx_iff_getElem?.1 h
  rw [elements, List.getElem?_map, Option.map_eq_some_iff] at hget
  obtain ⟨i, hi, hx⟩ := hget
  obtain ⟨hlt, hrange⟩ := List.getElem?_eq_some_iff.1 hi
  rw [List.getElem_range] at hrange
  subst hrange
  exact ⟨by simpa using hlt, hx.symm⟩

/-- Of two elements in the order of (key, index) the first lies before the second after four passes. -/
theorem StablyPlaced.le_of_zipIdxLE {n : Nat} {key₀ pay₀ key pay : Nat → Word} {f : Nat → Nat}
    (h : StablyPlaced n 4 key₀ pay₀ key pay f) {x y : (Word × Word) × Nat}
    (hx : x ∈ (elements n key₀ pay₀).zipIdx) (hy : y ∈ (elements n key₀ pay₀).zipIdx)
    (hle : List.zipIdxLE keyLE x y = true) : f x.2 ≤ f y.2 := by
  obtain ⟨hxn, hxe⟩ := mem_zipIdx_elements hx
  obtain ⟨hyn, hye⟩ := mem_zipIdx_elements hy
  refine le_of_not_gt fun hgt => ?_
  have horder := (h.order _ hyn _ hxn).1 hgt
  simp only [List.zipIdxLE, keyLE, hxe, hye, decide_eq_true_eq, BitVec.le_def, lowDigits_four] at hle horder
  split at hle
  · split at hle
    · simp only [decide_eq_true_eq] at hle
      omega
    · omega
  · simp at hle

/-- After four passes the elements are what any list of the input in the order of (key, index) holds. -/
theorem StablyPlaced.eq_map_fst {n : Nat} {key₀ pay₀ key pay : Nat → Word} {f : Nat → Nat}
    (h : StablyPlaced n 4 key₀ pay₀ key pay f) {sorted : List ((Word × Word) × Nat)}
    (hperm : sorted.Perm (elements n key₀ pay₀).zipIdx)
    (hsorted : sorted.Pairwise fun x y => List.zipIdxLE keyLE x y = true) :
    elements n key pay = sorted.map Prod.fst := by
  have hindices : (elements n key₀ pay₀).zipIdx.map Prod.snd = List.range n := by
    rw [List.zipIdx_map_snd, List.range_eq_range', elements, List.length_map, List.length_range]
  have hplacesPerm : (sorted.map fun x => f x.2).Perm (List.range n) :=
    calc (sorted.map fun x => f x.2).Perm ((elements n key₀ pay₀).zipIdx.map fun x => f x.2) := hperm.map _
      _ = (List.range n).map f := by rw [← hindices, List.map_map]; rfl
      List.Perm _ _ := h.perm
  have hplaces : (sorted.map fun x => f x.2) = List.range n :=
    hplacesPerm.eq_of_pairwise (le := (· ≤ ·)) (fun _ _ _ _ => le_antisymm)
      (List.pairwise_map.2 (hsorted.imp_of_mem fun hx hy hle =>
        h.le_of_zipIdxLE (hperm.mem_iff.1 hx) (hperm.mem_iff.1 hy) hle))
      (List.pairwise_lt_range.imp fun hlt => hlt.le)
  rw [elements, ← hplaces, List.map_map]
  refine List.map_congr_left fun x hx => ?_
  obtain ⟨hxn, hxe⟩ := mem_zipIdx_elements (hperm.mem_iff.1 hx)
  rw [Function.comp_apply, h.key _ hxn, h.pay _ hxn, hxe]

/-- After four passes the elements are the stable sort of the input. -/
theorem StablyPlaced.stableSort {n : Nat} {key₀ pay₀ key pay : Nat → Word} {f : Nat → Nat}
    (h : StablyPlaced n 4 key₀ pay₀ key pay f) : elements n key pay = stableSort (elements n key₀ pay₀) :=
  (h.eq_map_fst (List.mergeSort_perm _ _)
    (List.pairwise_mergeSort (List.zipIdxLE_trans keyLE_trans) (List.zipIdxLE_total keyLE_total) _)).trans
    List.mergeSort_zipIdx

end Sys2Proof.Machine

namespace Sys2Proof.Machine

/-! # The seven commands of SORT -/

/-! ## Commands one after the other -/

/-- A command keeps every space canonical and inside its bounds. -/
theorem exec_memOk {i : Instr} {s t : State} (hhost : s.host = []) (hmem : s.memOk = true) (h : exec i s = .next t) :
    t.memOk = true := by
  rcases exec_next h with rfl | ⟨s', hstart, _, hrun⟩
  · exact hmem
  · have hbus := hstart.sameRegisters.toSameBus
    have hmem' : s'.memOk = true :=
      (StoresAt.of_memOf_eq (inSpace s.cfg) hstart.memOf).memOk hbus.cfg hmem
    refine (runMoves_keeps (P := fun u => u.host = [] ∧ u.memOk = true) (fun u e v he hu hmove => ?_)
      ⟨hbus.host.trans hhost, hmem'⟩ hrun).2
    obtain ⟨huhost, humem⟩ := hu
    refine ⟨(engineMove_sameBus he huhost hmove).host.trans huhost, ?_⟩
    obtain ⟨u', hd, hcase⟩ := dispatchMove_cases he hmove
    have humem' : u'.memOk = true := (hd.storesAt (inSpace u.cfg)).memOk hd.sameRegisters.cfg humem
    rcases hcase with ⟨hr, _⟩ | hcomp | ⟨a, ha, hagent⟩
    · simp [hostReady_nil (hd.sameRegisters.host.trans huhost)] at hr
    · have hcompleted := completeMove_next hcomp
      exact hcompleted.memory.memOk hcompleted.sameBus.cfg humem'
    · have hworked := dispatchAgent_worked ha hagent
      exact hworked.memory.memOk hworked.registers.cfg humem'

theorem execAll_cons {i : Instr} {is : List Instr} {s u : State} (h : exec i s = .next u) :
    execAll (i :: is) s = execAll is u := by
  rw [execAll, h]

theorem execAll_append {is js : List Instr} {s u : State} (h : execAll is s = .next u) :
    execAll (is ++ js) s = execAll js u := by
  induction is generalizing s with
  | nil =>
    obtain rfl := Host.Outcome.next.inj h
    rfl
  | cons i is ih =>
    obtain ⟨v, hexec, h⟩ := execAll_cons_next h
    rw [List.cons_append, execAll_cons hexec, ih h]

/-! ## The middle of a sort -/

/-- u is the state of the sort of s before pass k: the rows hold the base of each digit, the partition words are Invalid
for the pass, and the elements are in the order of their k low digits. -/
structure SortStage (s : State) (k : Nat) (u : State) : Prop where
  bus : SameBus s u
  idle : u.executing = none
  memOk : u.memOk = true
  cmdErr : u.cmdErr = false
  clear : u.sortFailed = 0
  phase : u.phase = if k = 4 then .sorted else .scanned
  even : u.evenPass = BitVec.ofNat 32 ((k + 1) / 2)
  odd : u.oddPass = BitVec.ofNat 32 (k / 2)
  rows : ∀ p < 4, ∀ d < 256,
    loadWord u .hist (hidx p d) = BitVec.ofNat 32 (countBelow (paddedKey s) p s.paddedSize.toNat d)
  words : partitionsInvalid u k
  placed : ∃ f, StablyPlaced s.paddedSize.toNat k (paddedKey s) (loadWord s .payA) (sourceKey u k) (sourcePayload u k) f

/-- The command of pass k (30_encoding.md R108). -/
def scatterOf (k : Nat) : Instr := if k % 2 = 0 then .scatterEven else .scatterOdd

/-- The scatters of a sort from pass k on. -/
def scattersFrom (k n : Nat) : List Instr := (List.range' k n).map scatterOf

theorem scattersFrom_succ (k n : Nat) : scattersFrom k (n + 1) = scatterOf k :: scattersFrom (k + 1) n := by
  rw [scattersFrom, List.range'_succ]
  rfl

theorem sortCommands_eq : sortCommands = [.zero, .histogram, .prefixScan] ++ scattersFrom 0 4 := rfl

/-! ## ZERO, HISTOGRAM, PREFIX -/

/-- ZERO leaves every HIST word that the sort uses at 0. -/
theorem loadWord_zeroed_used {s : State} (hmem : s.memOk = true) {j : Nat}
    (hj : j < sortHistWords s.cfg s.paddedSize.toNat) : loadWord (zeroed s) .hist j = 0 :=
  (Memory.readWord_writeWords_const ((memOk_iff s).1 hmem .hist).1 _ 0 _).trans (if_pos (List.mem_range.2 hj))

theorem exec_zero {s : State} (hhost : s.host = []) (hlegal : sizesLegal s = true) :
    exec .zero s = .next (zeroed s) := by
  rw [← runToEnd_startZero hhost (sizesLegal_le_cap hlegal)]
  simp [exec, execZero, runCommand, hlegal]

theorem sumWords_append_singleton (xs : List Word) (x : Word) : sumWords (xs ++ [x]) = sumWords xs + x := by
  simp [sumWords]

/-- The digit counts before d sum to the elements with a digit below d. -/
theorem sumWords_countDigit (key : Nat → Word) (p n d : Nat) :
    sumWords ((List.range d).map fun e => BitVec.ofNat 32 (countDigit key p n e))
      = BitVec.ofNat 32 (countBelow key p n d) := by
  induction d with
  | zero => simp [sumWords, countBelow]
  | succ d ih =>
    rw [List.range_succ, List.map_append, List.map_singleton, sumWords_append_singleton, ih, countBelow_succ,
      BitVec.ofNat_add]

theorem zeroed_sameBus (s : State) : SameBus s (zeroed s) := ⟨rfl, rfl, rfl, rfl, rfl, rfl⟩

theorem paddedKey_zeroed (s : State) : paddedKey (zeroed s) = paddedKey s := rfl

/-- t is the state of the sort of s after ZERO and HISTOGRAM: padded keys, the digit counts in the rows, every partition
word 0. -/
structure SortCounted (s t : State) : Prop where
  bus : SameBus s t
  idle : t.executing = none
  memOk : t.memOk = true
  cmdErr : t.cmdErr = false
  clear : t.sortFailed = 0
  phase : t.phase = .histogrammed
  even : t.evenPass = 0
  odd : t.oddPass = 0
  rows : ∀ p < 4, ∀ d < 256,
    loadWord t .hist (hidx p d) = BitVec.ofNat 32 (countDigit (paddedKey s) p s.paddedSize.toNat d)
  words : ∀ j, 1024 ≤ j → j < sortHistWords s.cfg s.paddedSize.toNat → loadWord t .hist j = 0
  keys : ∀ i < s.paddedSize.toNat, loadWord t .keysA i = paddedKey s i
  pays : t.payA = s.payA

theorem sort_counted {s : State} (hwf : s.cfg.wf = true) (hhost : s.host = []) (hmem : s.memOk = true)
    (hlegal : sizesLegal s = true) : ∃ t, execAll [.zero, .histogram] s = .next t ∧ SortCounted s t := by
  have hzeroMem := zeroed_memOk (sizesLegal_le_cap hlegal) hmem
  obtain ⟨t, hexec, hfields, hkeys, _, hrows, hwords⟩ :=
    histogramCountsEveryDigit (zeroed s) hwf hhost rfl rfl hlegal hzeroMem
  have htmem : t.memOk = true := exec_memOk (s := zeroed s) hhost hzeroMem hexec
  refine ⟨t, by rw [execAll_cons (exec_zero hhost hlegal), execAll_cons hexec, execAll], ?_⟩
  have hbus : SameBus (zeroed s) t := by constructor <;> rw [hfields]
  refine ⟨(zeroed_sameBus s).trans hbus, by rw [hfields]; rfl, htmem, by rw [hfields]; rfl, by rw [hfields]; rfl,
    by rw [hfields], by rw [hfields]; rfl, by rw [hfields]; rfl, fun p hp d hd => ?_, fun j hj hlt => ?_, hkeys,
    by rw [hfields]; rfl⟩
  · have hcount := hrows p hp d hd
    rw [loadWord_zeroed hmem hp hd, paddedKey_zeroed] at hcount
    exact hcount.trans (zero_add _)
  · exact (loadWord_of_sameOutside hwords (.inr hj)).trans (loadWord_zeroed_used hmem hlt)

theorem SortCounted.legal {s t : State} (h : SortCounted s t) (hlegal : sizesLegal s = true) :
    sizesLegal t = true := by
  rw [sizesLegal, h.bus.cfg, h.bus.numKeys, h.bus.paddedSize]
  exact hlegal

/-- After ZERO, HISTOGRAM and PREFIX the sort stands before pass 0. -/
theorem sort_prepared {s : State} (hwf : s.cfg.wf = true) (hhost : s.host = []) (hmem : s.memOk = true)
    (hlegal : sizesLegal s = true) :
    ∃ u, execAll [.zero, .histogram, .prefixScan] s = .next u ∧ SortStage s 0 u := by
  obtain ⟨t, hexec, ht⟩ := sort_counted hwf hhost hmem hlegal
  have hthost := ht.bus.host.trans hhost
  obtain ⟨u, hprefix, hfields, hrows, hwords⟩ := (prefixSumsEveryRow t hthost ht.idle).2 ht.phase
    (ht.legal hlegal) ((memOk_iff t).1 ht.memOk .hist).1
  have humem : u.memOk = true := exec_memOk (s := t) hthost ht.memOk hprefix
  have hbus : SameBus t u := by constructor <;> rw [hfields]
  have hkeysA : u.keysA = t.keysA := by rw [hfields]
  have hpayA : u.payA = t.payA := by rw [hfields]
  refine ⟨u, ?_, ht.bus.trans hbus, ?_, humem, ?_, ?_, ?_, ?_, ?_, fun p hp d hd => ?_, fun w hw d hd => ?_, id,
    stablyPlaced_input (fun i hi => ?_) fun i _ => ?_⟩
  · rw [show [Instr.zero, .histogram, .prefixScan] = [.zero, .histogram] ++ [.prefixScan] from rfl,
      execAll_append hexec, execAll_cons hprefix, execAll]
  · rw [hfields, ht.idle]
  · rw [hfields, ht.cmdErr]
  · rw [hfields, ht.clear]
  · rw [hfields]; rfl
  · rw [hfields, ht.even]; rfl
  · rw [hfields, ht.odd]; rfl
  · rw [hrows p hp d hd, ← sumWords_countDigit]
    exact congrArg sumWords (List.map_congr_left fun e he => ht.rows p hp e ((List.mem_range.1 he).trans hd))
  · have hlt : pidx w d < sortHistWords s.cfg s.paddedSize.toNat := by
      rw [hbus.cfg, hbus.paddedSize, ht.bus.cfg, ht.bus.paddedSize] at hw
      simp only [pidx, sortHistWords]
      omega
    have hle : 1024 ≤ pidx w d := by simp only [pidx]; omega
    rw [loadWord_of_sameOutside hwords (.inr hle), ht.words _ hle hlt, rotatedTagsHideThePassBefore.2]
  · exact (loadWord_congr (sp := .keysA) hkeysA i).trans (ht.keys i hi)
  · exact loadWord_congr (sp := .payA) (hpayA.trans ht.pays) i

/-! ## One pass of a sort -/

theorem sourceKeys_succ (p : Nat) : sourceKeys (p + 1) = destKeys p ∧ sourcePay (p + 1) = destPay p := by
  rcases Nat.mod_two_eq_zero_or_one p with hp | hp
  · obtain ⟨_, _, h3, h4⟩ := roles_even hp
    obtain ⟨h1, h2, _, _⟩ := roles_odd (p := p + 1) (by omega)
    exact ⟨h1.trans h3.symm, h2.trans h4.symm⟩
  · obtain ⟨_, _, h3, h4⟩ := roles_odd hp
    obtain ⟨h1, h2, _, _⟩ := roles_even (p := p + 1) (by omega)
    exact ⟨h1.trans h3.symm, h2.trans h4.symm⟩

theorem ofNat_add_one (n : Nat) : BitVec.ofNat 32 n + 1 = BitVec.ofNat 32 (n + 1) := (BitVec.ofNat_add n 1).symm

section Stage

variable {s u v : State} {k : Nat} (h : SortStage s k u)
include h

theorem SortStage.legal (hlegal : sizesLegal s = true) : sizesLegal u = true := by
  rw [sizesLegal, h.bus.cfg, h.bus.numKeys, h.bus.paddedSize]
  exact hlegal

section Pass

variable (hk : k < 4)
include hk

theorem SortStage.counters : u.evenPass.toNat = (k + 1) / 2 ∧ u.oddPass.toNat = k / 2 := by
  rw [h.even, h.odd, BitVec.toNat_ofNat, BitVec.toNat_ofNat]
  omega

/-- The command of pass k is accepted, as pass k (44_orchestrator.md R226, R232). -/
theorem SortStage.exec_scatterOf (hlegal : sizesLegal s = true) :
    exec (scatterOf k) u = runToEnd (startScatter k u) := by
  have hphase : u.phase = .scanned := h.phase.trans (if_neg hk.ne)
  obtain ⟨heven, hodd⟩ := h.counters hk
  rcases Nat.mod_two_eq_zero_or_one k with hp | hp
  · have hpass : evenPassIndex u = k := by rw [evenPassIndex]; omega
    have heq : u.evenPass = u.oddPass := BitVec.eq_of_toNat_eq (by omega)
    have hacc : scatterEvenAccepted u = true := by
      simp only [scatterEvenAccepted, hphase, heq, Bool.and_eq_true, beq_iff_eq, decide_eq_true_eq, true_and]
      omega
    rw [scatterOf, if_pos hp, exec, execScatterEven, runCommand, if_pos hacc, if_pos (h.legal hlegal), hpass]
  · have hpass : oddPassIndex u = k := by rw [oddPassIndex]; omega
    have hacc : scatterOddAccepted u = true := by
      simp only [scatterOddAccepted, hphase, Bool.and_eq_true, beq_iff_eq, true_and]
      omega
    rw [scatterOf, if_neg (by omega), exec, execScatterOdd, runCommand, if_pos hacc, if_pos (h.legal hlegal),
      hpass]

/-- The rows are exact for the source of pass k, whose elements are those of the input in another order. -/
theorem SortStage.passInput (hwf : s.cfg.wf = true) (hlegal : sizesLegal s = true) : PassInput u k := by
  obtain ⟨f, hf⟩ := h.placed
  refine Machine.passInput (h.bus.cfg ▸ hwf) h.memOk (h.legal hlegal) hk (fun d hd => ?_)
    fun w hw => h.words w (by omega)
  rw [h.rows k hk d hd, h.bus.paddedSize, hf.countBelow]

/-- The counters and PHASE after pass k (44_orchestrator.md R227, R231). -/
theorem SortStage.passDone_counters (hreg : SameRegisters u v) :
    (passDone k v).phase = (if k + 1 = 4 then .sorted else .scanned)
      ∧ (passDone k v).evenPass = BitVec.ofNat 32 ((k + 1 + 1) / 2)
      ∧ (passDone k v).oddPass = BitVec.ofNat 32 ((k + 1) / 2) := by
  have hphase : v.phase = .scanned := hreg.phase.trans (h.phase.trans (if_neg hk.ne))
  have heven := hreg.evenPass.trans h.even
  have hodd := hreg.oddPass.trans h.odd
  rcases Nat.mod_two_eq_zero_or_one k with hp | hp
  · rw [passDone_even hp, scatterEvenDone_phase, scatterEvenDone_evenPass, scatterEvenDone_oddPass, hphase, heven, hodd,
      ofNat_add_one]
    refine ⟨(if_neg (by omega)).symm, ?_, ?_⟩ <;> congr 1 <;> omega
  · have htwo : v.oddPass + 1 = 2 ↔ k + 1 = 4 := by
      rw [counter_succ_eq_two_iff, hodd, ← BitVec.toNat_inj, BitVec.toNat_ofNat, show (1 : Word).toNat = 1 from rfl]
      omega
    rw [passDone_odd hp, scatterOddDone_phase, scatterOddDone_evenPass, scatterOddDone_oddPass, hphase, heven]
    simp only [htwo, true_and]
    rw [hodd, ofNat_add_one]
    refine ⟨?_, ?_⟩ <;> congr 1 <;> omega

/-- A pass that ends with SORT_FAILED = 0 takes the sort to the next stage. -/
theorem SortStage.succ (hin : PassInput u k) (hreg : SameRegisters u v) (hmem : (passDone k v).memOk = true)
    (hresult : PassResult u (passDone k v) k) (hclear : (passDone k v).sortFailed = 0) :
    SortStage s (k + 1) (passDone k v) := by
  obtain ⟨hbus, herr, _⟩ := passDone_registers k v
  have hbus' := hreg.toSameBus.trans hbus
  obtain ⟨hphase, heven, hodd⟩ := h.passDone_counters hk hreg
  obtain ⟨f, hf⟩ := h.placed
  obtain ⟨hkeys, hpay⟩ := sourceKeys_succ k
  refine ⟨h.bus.trans hbus', passDone_executing k v, hmem, herr.trans (hreg.cmdErr.trans h.cmdErr), hclear, hphase,
    heven, hodd, fun p hp d hd => ?_, fun w hw d hd => ?_, _, hf.succ (fun i hi => ?_) fun i hi => ?_⟩
  · refine (loadWord_of_sameOutside hresult.histogram (.inl ?_)).trans (h.rows p hp d hd)
    simp only [hidx]
    omega
  · rw [hbus'.cfg, hbus'.paddedSize] at hw
    have hsmall : totalBefore u k (w + 1) d ≤ Config.countMax :=
      (hin.totalBefore_le (Nat.succ_le_of_lt hw)).trans hin.small
    rw [hresult.published hclear w hw d hd, hin.row d hd, ← BitVec.ofNat_add]
    exact congrArg Prod.fst (rotatedTagsHideThePassBefore.1 k _ (ofNat_toNat_le hsmall)).2.2
  · rw [sourceKey, hkeys, ← h.bus.paddedSize]
    exact (hresult.placed hclear i (h.bus.paddedSize.symm ▸ hi)).1
  · rw [sourcePayload, hpay, ← h.bus.paddedSize]
    exact (hresult.placed hclear i (h.bus.paddedSize.symm ▸ hi)).2

/-- Pass k of a sort ends, and where SORT_FAILED is 0 then, the sort stands before the next pass. -/
theorem SortStage.exec_next (hwf : s.cfg.wf = true) (hhost : s.host = []) (hlegal : sizesLegal s = true) :
    ∃ t, exec (scatterOf k) u = .next t ∧ (t.sortFailed = 0 → SortStage s (k + 1) t) := by
  have hin := h.passInput hk hwf hlegal
  have huhost := h.bus.host.trans hhost
  obtain ⟨v, hrun, hreg, hresult⟩ := pass_result hin huhost h.clear
  have hexec := (h.exec_scatterOf hk hlegal).trans hrun
  exact ⟨_, hexec, h.succ hk hin hreg (exec_memOk huhost h.memOk hexec) hresult⟩

/-- With one partition pass k of a sort ends with SORT_FAILED = 0 (43_scatter.md R197). -/
theorem SortStage.exec_onePartition (hwf : s.cfg.wf = true) (hhost : s.host = [])
    (hlegal : sizesLegal s = true) (hone : s.paddedSize.toNat = s.cfg.tileS) :
    ∃ t, exec (scatterOf k) u = .next t ∧ SortStage s (k + 1) t := by
  have hgrid : scatterGrid u.cfg u.paddedSize.toNat = 1 := by
    rw [h.bus.cfg, h.bus.paddedSize]
    exact scatterGrid_eq_one hwf hone
  obtain ⟨t, hexec, hnext⟩ := h.exec_next hk hwf hhost hlegal
  obtain ⟨v, hrun, _, hflag, _⟩ := onePartition_pass (h.passInput hk hwf hlegal) (h.bus.host.trans hhost) hgrid
  obtain rfl := Host.Outcome.next.inj (hexec.symm.trans ((h.exec_scatterOf hk hlegal).trans hrun))
  exact ⟨_, hexec, hnext ((passDone_registers k v).2.2.trans (hflag.trans h.clear))⟩

end Pass

end Stage

/-! ## The sort as a whole -/

/-- The scatters never clear SORT_FAILED: where it is 0 at the end it was 0 all the time (10_state.md R25). -/
theorem sortFailed_of_scatters {k n : Nat} {s t : State} (hhost : s.host = []) (hidle : s.executing = none)
    (h : execAll (scattersFrom k n) s = .next t) (hclear : t.sortFailed = 0) : s.sortFailed = 0 := by
  induction n generalizing k s with
  | zero =>
    obtain rfl := Host.Outcome.next.inj h
    exact hclear
  | succ n ih =>
    rw [scattersFrom_succ] at h
    obtain ⟨u, hexec, h⟩ := execAll_cons_next h
    obtain ⟨_, _, _, hhost', _⟩ := commandsLeaveSizesAndQueueAlone _ s u hhost hidle hexec
    have hu := ih (hhost'.trans hhost) (commandsRunToTheirEnd _ s u hidle hexec) h
    have hne : scatterOf k ≠ .zero := by
      unfold scatterOf
      split <;> nofun
    rcases onlyZeroClearsSortFailed _ s u hhost hidle hexec hne with heq | ⟨hone, _⟩
    · exact heq.symm.trans hu
    · exact absurd (hone.symm.trans hu) (by decide)

/-- The scatters of a sort that end with SORT_FAILED = 0 take it to its last stage. -/
theorem SortStage.of_scatters {s u t : State} {k n : Nat} (h : SortStage s k u) (hkn : k + n = 4)
    (hwf : s.cfg.wf = true) (hhost : s.host = []) (hlegal : sizesLegal s = true)
    (hexec : execAll (scattersFrom k n) u = .next t) (hclear : t.sortFailed = 0) : SortStage s 4 t := by
  induction n generalizing k u with
  | zero =>
    obtain rfl := Host.Outcome.next.inj hexec
    obtain rfl : k = 4 := hkn
    exact h
  | succ n ih =>
    rw [scattersFrom_succ] at hexec
    obtain ⟨v, hfirst, hrest⟩ := execAll_cons_next hexec
    obtain ⟨w, hexec', hnext⟩ := h.exec_next (by omega) hwf hhost hlegal
    obtain rfl := Host.Outcome.next.inj (hfirst.symm.trans hexec')
    have huhost := h.bus.host.trans hhost
    obtain ⟨_, _, _, hhost', _⟩ := commandsLeaveSizesAndQueueAlone _ u v huhost h.idle hfirst
    have hidle' := commandsRunToTheirEnd _ u v h.idle hfirst
    exact ih (hnext (sortFailed_of_scatters (hhost'.trans huhost) hidle' hrest hclear)) (by omega) hrest

/-- With one partition the scatters of a sort take it to its last stage. -/
theorem SortStage.onePartition_scatters {s u : State} {k n : Nat} (h : SortStage s k u) (hkn : k + n = 4)
    (hwf : s.cfg.wf = true) (hhost : s.host = []) (hlegal : sizesLegal s = true)
    (hone : s.paddedSize.toNat = s.cfg.tileS) : ∃ t, execAll (scattersFrom k n) u = .next t ∧ SortStage s 4 t := by
  induction n generalizing k u with
  | zero =>
    obtain rfl : k = 4 := hkn
    exact ⟨u, rfl, h⟩
  | succ n ih =>
    obtain ⟨v, hexec, hv⟩ := h.exec_onePartition (by omega) hwf hhost hlegal hone
    obtain ⟨t, hrest, ht⟩ := ih hv (by omega)
    exact ⟨t, by rw [scattersFrom_succ, execAll_cons hexec, hrest], ht⟩

/-- At its last stage a sort has sorted A (44_orchestrator.md R229). -/
theorem SortStage.sorted {s t : State} (h : SortStage s 4 t) :
    elementsA t s.paddedSize.toNat = stableSort (sortInput s) := by
  obtain ⟨f, hf⟩ := h.placed
  exact hf.stableSort

/-- Settles O51: each pass that leaves SORT_FAILED at 0 is a stable counting sort by its digit, and four of them are the
stable sort by key. -/
theorem successfulSortSortsStably : Obligations.SuccessfulSortSortsStably := by
  intro s t hwf hhost _ hmem hlegal hexec hclear
  obtain ⟨u, hprepared, hstage⟩ := sort_prepared hwf hhost hmem hlegal
  rw [sortCommands_eq, execAll_append hprepared] at hexec
  have hlast := hstage.of_scatters rfl hwf hhost hlegal hexec hclear
  refine ⟨hlast.sorted, hlast.phase, hlast.cmdErr, hlast.even, hlast.odd, ?_⟩
  have hphase : t.phase = .sorted := hlast.phase
  simp [statusWord, busy, hlast.idle, hlast.cmdErr, hphase, phaseBits]

/-- Settles O52: with one partition no pass fails, so the sort gets to its last stage. -/
theorem onePartitionSortSucceeds : Obligations.OnePartitionSortSucceeds := by
  intro s hwf hhost _ hmem hlegal hone
  obtain ⟨u, hprepared, hstage⟩ := sort_prepared hwf hhost hmem hlegal
  obtain ⟨t, hexec, hlast⟩ := hstage.onePartition_scatters (n := 4) rfl hwf hhost hlegal hone
  exact ⟨t, by rw [sortCommands_eq, execAll_append hprepared, hexec], hlast.clear, hlast.phase, hlast.sorted⟩

end Sys2Proof.Machine

namespace Sys2Proof.Machine

/-! # The sequence table: which command runs, and what it does with the counters and PHASE -/

/-! ## Which command a step runs -/

/-- With a word queued and no command executing, the sequencer can move, and the host where it is ready (R69, R225). -/
theorem enabledAgents_idle {s : State} (hidle : s.executing = none) (hq : s.queue ≠ []) :
    enabledAgents s = if hostReady s then [.sequencer, .host] else [.sequencer] := by
  simp only [enabledAgents, engineAgents, hidle, List.isEmpty_iff, hq, if_false]
  split <;> rfl

/-- The draw 0 picks the sequencer where the host could move as well. -/
theorem step_draw_sequencer {s : State} {ds : List Nat} (hidle : s.executing = none) (hq : s.queue ≠ [])
    (hready : hostReady s = true) (hsched : s.sched = 0 :: ds) : step s = sequencerMove { s with sched := ds } := by
  simp [step, hidle, idleMove, enabledAgents_idle hidle hq, hready, pick, draw, hsched, choose]

/-- The draw 1 picks the host where it can move beside the sequencer. -/
theorem step_draw_host {s : State} {ds : List Nat} (hidle : s.executing = none) (hq : s.queue ≠ [])
    (hready : hostReady s = true) (hsched : s.sched = 1 :: ds) : step s = hostMove { s with sched := ds } := by
  simp [step, hidle, idleMove, enabledAgents_idle hidle hq, hready, pick, draw, hsched, choose]

/-- Settles O18: the draw decides who moves, and the sequencer's move on a decoded word is its command. -/
theorem stepRunsTheDecodedCommand : Obligations.StepRunsTheDecodedCommand := by
  intro s c rest i hidle hq hdecode _
  have hne : s.queue ≠ [] := by simp [hq]
  refine ⟨fun hhost => ?_, fun ds hready hsched => ?_, fun ds hready hsched => ?_⟩
  · exact (step_eq_sequencerMove hidle hne hhost).trans (sequencerMove_decoded hq hdecode)
  · exact (step_draw_sequencer hidle hne hready hsched).trans
      (sequencerMove_decoded (s := { s with sched := ds }) hq hdecode)
  · exact step_draw_host hidle hne hready hsched

/-- A command word is 32 bits long, so withFetchWord places all of it (30_encoding.md R90). -/
theorem withFetchWord_word (s : State) (c : Word) : s.withFetchWord 32 c.toNat = placeCommandWord s c := by
  rw [State.withFetchWord, Nat.mod_eq_of_lt c.isLt, BitVec.ofNat_toNat, BitVec.setWidth_eq]

/-- A placed command word is what the next step runs: where the host could move, the placed draw picks the
sequencer. -/
theorem step_placeCommandWord {c : Word} {i : Instr} (hdecode : decode c = .ok i) (s : State) :
    step (placeCommandWord s c) = exec i { s with executing := none, queue := s.queue.tail } := by
  cases hready : hostReady (putHead { s with executing := none } c) with
  | true =>
    simp only [placeCommandWord, hready, if_true]
    exact Eq.trans (step_draw_sequencer rfl (List.cons_ne_nil c _) hready rfl) (sequencerMove_decoded rfl hdecode)
  | false =>
    simp only [placeCommandWord, hready]
    exact Eq.trans (step_eq_sequencerMove rfl (List.cons_ne_nil c _) hready) (sequencerMove_decoded rfl hdecode)

/-- Settles O19: the placed word is the command's own, which decodes to it. -/
theorem placedWordRunsNext : Obligations.PlacedWordRunsNext := by
  intro i s
  rw [withFetchWord_word]
  exact step_placeCommandWord (decode_encode i) s

/-! ## When a command is accepted -/

theorem histogramAccepted_iff (s : State) : histogramAccepted s = true ↔ phaseBits s.phase = 1 := by
  cases h : s.phase <;> simp [histogramAccepted, h, phaseBits]

theorem prefixAccepted_iff (s : State) : prefixAccepted s = true ↔ phaseBits s.phase = 2 := by
  cases h : s.phase <;> simp [prefixAccepted, h, phaseBits]

theorem phaseBits_eq_three_iff (ph : Phase) : phaseBits ph = 3 ↔ ph = .scanned := by
  cases ph <;> simp [phaseBits]

theorem scatterEvenAccepted_iff (s : State) : scatterEvenAccepted s = true ↔
    phaseBits s.phase = 3 ∧ s.evenPass = s.oddPass ∧ s.evenPass.toNat ≤ 1 := by
  simp only [scatterEvenAccepted, phaseBits_eq_three_iff, Bool.and_eq_true, beq_iff_eq, decide_eq_true_eq, and_assoc]

theorem scatterOddAccepted_iff (s : State) : scatterOddAccepted s = true ↔
    phaseBits s.phase = 3 ∧ s.evenPass.toNat = s.oddPass.toNat + 1 := by
  simp only [scatterOddAccepted, phaseBits_eq_three_iff, Bool.and_eq_true, beq_iff_eq]

/-- The sequencer with a decoded command, where its acceptance is the proposition P (44_orchestrator.md R225). -/
theorem runCommand_of_iff {accepted : Bool} {P : Prop} [Decidable P] (h : accepted = true ↔ P)
    (start : State → State) (s : State) : runCommand accepted start s =
      if P then (if sizesLegal s then runToEnd (start s) else .refused .capacity)
      else .next { s with cmdErr := true } := by
  unfold runCommand
  exact if_congr h rfl rfl

/-- Settles O20: each command is the sequencer's runCommand with its acceptance. -/
theorem commandsOutOfSequenceAreDiscarded : Obligations.CommandsOutOfSequenceAreDiscarded := by
  intro s
  exact ⟨(runCommand_of_iff (iff_of_true rfl trivial) startZero s).trans (if_pos trivial),
    runCommand_of_iff (histogramAccepted_iff s) startHistogram s,
    runCommand_of_iff (prefixAccepted_iff s) startScan s,
    runCommand_of_iff (scatterEvenAccepted_iff s) (startScatter (evenPassIndex s)) s,
    runCommand_of_iff (scatterOddAccepted_iff s) (startScatter (oddPassIndex s)) s⟩

/-! ## ZERO -/

/-- ZERO leaves 0 in every HIST word that a sort of this size uses, whatever else memory holds. -/
theorem loadWord_zeroed_lt {s : State} (hwf : Memory.wf s.hist = true) {j : Nat}
    (hj : j < sortHistWords s.cfg s.paddedSize.toNat) : loadWord (zeroed s) .hist j = 0 :=
  (Memory.readWord_writeWords_const hwf _ 0 j).trans (if_pos (List.mem_range.2 hj))

/-- ZERO stores to those words only. -/
theorem zeroed_sameOutside {s : State} (hwf : Memory.wf s.hist = true) :
    sameOutside s (zeroed s) .hist 0 (sortHistWords s.cfg s.paddedSize.toNat) := by
  intro a ha
  refine Memory.readByte_writeWords_other hwf fun x hx => ?_
  have hlt : x.1 < sortHistWords s.cfg s.paddedSize.toNat := zeroStores_mem hx
  omega

/-- Settles O35: an accepted ZERO of legal sizes ends in the state zeroed, whose HIST is ZERO's run of stores. -/
theorem zeroClearsHistAndInfo : Obligations.ZeroClearsHistAndInfo := by
  intro s hhost
  refine ⟨fun hillegal => ?_, fun hlegal hwf =>
    ⟨zeroed s, exec_zero hhost hlegal, rfl, fun j hj => loadWord_zeroed_lt hwf hj, zeroed_sameOutside hwf⟩⟩
  rw [(commandsOutOfSequenceAreDiscarded s).1, if_neg (by simp [hillegal])]

/-! ## A scatter's completion -/

/-- A state on the run of pass p of s: the pass in the middle, or completed with nothing but its completion counted. -/
inductive OnPass (s : State) (p : Nat) : State → Prop where
  | running {u : State} (run : ScatterRun) (executing : u.executing = some (.scatter run)) (pass : run.pass = p)
      (registers : SameRegisters s u) : OnPass s p u
  | completed {u : State} (registers : SameRegisters s u) : OnPass s p (passDone p u)

/-- With no host operation pending every move of a pass goes on with it or completes it. -/
theorem OnPass.dispatchMove {s u t : State} {p : Nat} {e : Executing} (h : OnPass s p u) (hhost : s.host = [])
    (he : u.executing = some e) (hmove : dispatchMove e u = .next t) : OnPass s p t := by
  cases h with
  | completed _ => simp [passDone_executing] at he
  | running run hexec hpass hreg =>
    obtain rfl := Option.some.inj (hexec.symm.trans he)
    obtain ⟨u', hd, hcase⟩ := dispatchMove_cases he hmove
    have hreg' := hreg.trans hd.sameRegisters
    rcases hcase with ⟨hr, _⟩ | hcomp | ⟨a, ha, hagent⟩
    · simp [hostReady_nil (hreg'.host.trans hhost)] at hr
    · obtain rfl : passDone run.pass u' = t := Host.Outcome.next.inj hcomp
      exact hpass ▸ .completed hreg'
    · obtain ⟨hworked, _, _, e', ht, hsame, _⟩ := dispatchAgent_worked ha hagent
      cases hsame with
      | scatter hpass' _ => exact .running _ ht (hpass'.trans hpass) (hreg'.trans hworked)

/-- A pass that ends has changed no register but what its completion counts (44_orchestrator.md R227). -/
theorem runToEnd_startScatter_next {s t : State} {p : Nat} (hhost : s.host = [])
    (h : runToEnd (startScatter p s) = .next t) : ∃ u, SameRegisters s u ∧ t = passDone p u := by
  have hstart : OnPass s p (startScatter p s) :=
    .running _ (startScatter_executing p s) rfl ⟨⟨rfl, rfl, rfl, rfl, rfl, rfl⟩, rfl, rfl, rfl, rfl⟩
  have hlast : OnPass s p t := runMoves_keeps (fun _ _ _ he hu hmove => hu.dispatchMove hhost he hmove) hstart h
  cases hlast with
  | running _ hexec => simp [runToEnd_ends h] at hexec
  | completed hreg => exact ⟨_, hreg, rfl⟩

/-- Settles O24: the pass leaves the registers alone, and the completion is the one of the pass's parity. -/
theorem scatterCompletionCountsThePass : Obligations.ScatterCompletionCountsThePass := by
  intro s t hhost _
  constructor
  · intro hacc h
    rcases runCommand_next h with ⟨hdiscard, _⟩ | ⟨_, _, hrun⟩
    · simp [hacc] at hdiscard
    · obtain ⟨u, hreg, rfl⟩ := runToEnd_startScatter_next hhost hrun
      rw [passDone_even (by rw [evenPassIndex]; omega)]
      exact ⟨congrArg (· + 1) hreg.evenPass, hreg.oddPass, hreg.phase, hreg.cmdErr⟩
  · intro hacc h
    rcases runCommand_next h with ⟨hdiscard, _⟩ | ⟨_, _, hrun⟩
    · simp [hacc] at hdiscard
    · obtain ⟨u, hreg, rfl⟩ := runToEnd_startScatter_next hhost hrun
      rw [passDone_odd (by rw [oddPassIndex]; omega)]
      refine ⟨congrArg (· + 1) hreg.oddPass, hreg.evenPass, hreg.cmdErr, ?_⟩
      simp only [scatterOddDone_phase, hreg.oddPass, hreg.phase, counter_succ_eq_two_iff]

end Sys2Proof.Machine

namespace Sys2Proof.Machine

/-! # The transitions of PHASE -/

/-! ## The host -/

/-- A write that goes through is one of a register, or the store of a word. -/
theorem hostWrite_target {s t : State} {tgt : Target} {offset size : Nat} {v : Word}
    (h : hostWrite s tgt offset size v = .next t) :
    (∃ r : Reg, tgt = .registers ∧ offset = r.offset ∧ size = 4 ∧ writeReg s r v = .next t) ∨
      ∃ sp i, t = storeWord s sp i v := by
  by_cases hword : oneAlignedWord offset size = true
  · simp only [hostWrite, hword, Bool.not_true, Bool.false_eq_true, if_false] at h
    cases tgt with
    | registers =>
      simp only at h
      split at h
      · simp at h
      · next r hreg => exact .inl ⟨r, rfl, offset_of_regAt hreg, oneAlignedWord_size hword, h⟩
    | space sp =>
      simp only at h
      split at h
      · simp at h
      · split at h
        · simp at h
        · exact .inr ⟨sp, offset / 4, (Host.Outcome.next.inj h).symm⟩
  · simp [hostWrite, hword] at h

/-- The host operations that take PHASE to 0: the reset event, and a write of a size while idle (10_state.md R28). -/
def ClearsPhase (s : State) (op : HostOp) : Prop :=
  op = .reset ∨ (busy s = false ∧ ∃ v, op = opWrite .numKeys v ∨ op = opWrite .paddedSize v)

/-- Of the registers only the sizes touch PHASE when they are written, and only while idle. -/
theorem writeReg_phase {s t : State} {r : Reg} {v : Word} (h : writeReg s r v = .next t) :
    t.phase = s.phase ∨ (t.phase = .unprepared ∧ ClearsPhase s (opWrite r v)) := by
  cases r with
  | numKeys =>
    simp only [writeReg] at h
    split at h
    · simp at h
    · next hidle =>
      exact .inr ⟨Host.Outcome.next.inj h ▸ rfl, .inr ⟨by simpa using hidle, v, .inl rfl⟩⟩
  | paddedSize =>
    simp only [writeReg] at h
    split at h
    · simp at h
    · next hidle =>
      exact .inr ⟨Host.Outcome.next.inj h ▸ rfl, .inr ⟨by simpa using hidle, v, .inr rfl⟩⟩
  | cmd =>
    simp only [writeReg] at h
    split at h
    · simp at h
    · exact .inl (Host.Outcome.next.inj h ▸ rfl)
  | _ => simp [writeReg] at h

/-- A host operation leaves PHASE, or is one of those that take it to 0. -/
theorem hostOp_phase {s t : State} {op : HostOp} (h : hostOp s op = .next t) :
    t.phase = s.phase ∨ (t.phase = .unprepared ∧ ClearsPhase s op) := by
  cases op with
  | write tgt offset size v =>
    rcases hostWrite_target h with ⟨r, rfl, rfl, rfl, hreg⟩ | ⟨sp, i, rfl⟩
    · exact writeReg_phase hreg
    · exact .inl (storeWord_phase s sp i v)
  | read tgt offset size =>
    obtain ⟨v, rfl⟩ := hostRead_answers h
    exact .inl rfl
  | wait => exact .inl (Host.Outcome.next.inj h ▸ rfl)
  | reset => exact .inr ⟨Host.Outcome.next.inj h ▸ rfl, .inl rfl⟩

/-- BUSY does not depend on the draws. -/
theorem DrawsFrom.busy {s t : State} (h : DrawsFrom s t) : busy t = busy s := by
  simp only [Machine.busy, h.executing, h.sameRegisters.queue]

/-- A host that can move uses up its next operation, and PHASE stays unless that operation takes it to 0. -/
theorem hostMove_phase {s t : State} (hready : hostReady s = true) (h : hostMove s = .next t) :
    ∃ op, s.host = op :: t.host ∧ (t.phase = s.phase ∨ (t.phase = .unprepared ∧ ClearsPhase s op)) := by
  obtain ⟨op, rest, hhost⟩ := hostReady_nonempty hready
  rw [hostMove_cons hhost] at h
  have hrest : t.host = rest := (hostOp_next h).host
  exact ⟨op, hrest ▸ hhost, hostOp_phase (s := { s with host := rest }) h⟩

/-! ## The executing command -/

/-- The rows of 44_orchestrator.md R231 that a run from s can end in at t: a reset event in the middle of it, or the
completion of its command. -/
inductive RunTransition (s t : State) : Prop where
  | reset (used : .reset :: t.host <:+ s.host) (phase : t.phase = .unprepared)
  | zeroed (phase : t.phase = .zeroed) (even : t.evenPass = 0) (odd : t.oddPass = 0) (flag : t.sortFailed = 0)
      (cmdErr : t.cmdErr = false)
  | histogrammed (before : s.phase = .zeroed) (phase : t.phase = .histogrammed)
  | scanned (before : s.phase = .histogrammed) (phase : t.phase = .scanned)
  | sorted (before : s.phase = .scanned) (phase : t.phase = .sorted) (odd : t.oddPass = 2)

/-- From s to t PHASE stayed while the host used up some operations, or the command ended and PHASE changed as
listed. -/
inductive PhaseMove (s t : State) : Prop where
  | stays (phase : t.phase = s.phase) (host : t.host <:+ s.host)
  | ends (ended : t.executing = none) (row : RunTransition s t)

/-- A transition counts from any earlier state of the run that has the same PHASE. -/
theorem RunTransition.of_earlier {s u t : State} (h : RunTransition u t) (hphase : u.phase = s.phase)
    (hhost : u.host <:+ s.host) : RunTransition s t := by
  cases h with
  | reset used phase => exact .reset (used.trans hhost) phase
  | zeroed phase even odd flag cmdErr => exact .zeroed phase even odd flag cmdErr
  | histogrammed before phase => exact .histogrammed (hphase ▸ before) phase
  | scanned before phase => exact .scanned (hphase ▸ before) phase
  | sorted before phase odd => exact .sorted (hphase ▸ before) phase odd

theorem PhaseMove.of_earlier {s u t : State} (h : PhaseMove u t) (hphase : u.phase = s.phase)
    (hhost : u.host <:+ s.host) : PhaseMove s t := by
  cases h with
  | stays phase host => exact .stays (phase.trans hphase) (host.trans hhost)
  | ends ended row => exact .ends ended (row.of_earlier hphase hhost)

theorem SameRegisters.phaseMove {s t : State} (h : SameRegisters s t) : PhaseMove s t :=
  .stays h.phase (h.host ▸ List.suffix_rfl)

/-- Between ZERO's stores and its completion SORT_FAILED and CMD_ERR are cleared as well (R221). -/
theorem registersFit_cleared_flags {s : State} {n : Nat} (h : s.executing = some (.zero n true))
    (hregs : registersFit s = true) : s.sortFailed = 0 ∧ s.cmdErr = false := by
  simp only [registersFit, h, Bool.and_eq_true, beq_iff_eq, Bool.not_eq_true'] at hregs
  obtain ⟨⟨_, hflag⟩, herr⟩ := hregs
  exact ⟨hflag, herr⟩

/-- The sequencer's move changes PHASE as listed: the invariant tells the PHASE its command runs in. -/
theorem Completion.phaseMove {e : Executing} {s t : State} (h : Completion s e t) (he : s.executing = some e)
    (hs : s.inv = true) : PhaseMove s t := by
  obtain ⟨_, _, hregs, hexec⟩ := (inv_iff s).1 hs
  cases h with
  | clear size _ => exact .stays rfl List.suffix_rfl
  | zero size =>
    obtain ⟨heven, hodd⟩ := registersFit_cleared he hregs
    obtain ⟨hflag, herr⟩ := registersFit_cleared_flags he hregs
    exact .ends rfl (.zeroed rfl heven hodd hflag herr)
  | histogram run => exact .ends rfl (.histogrammed (by simpa [executingFits, he] using hexec) rfl)
  | scan groups => exact .ends rfl (.scanned (by simpa [executingFits, he] using hexec) rfl)
  | scatterEven run even => exact .stays rfl List.suffix_rfl
  | scatterOdd run odd =>
    obtain ⟨hphase, _⟩ := (executingFits_scatter he).1 hexec
    by_cases hlast : s.oddPass + 1 = 2
    · exact .ends rfl (.sorted hphase (if_pos hlast) hlast)
    · exact .stays (if_neg hlast) List.suffix_rfl

/-- Every move while a command executes changes PHASE as listed. -/
theorem dispatchMove_phaseMove {e : Executing} {s t : State} (he : s.executing = some e) (hs : s.inv = true)
    (h : dispatchMove e s = .next t) : PhaseMove s t := by
  obtain ⟨s', hd, hmove⟩ := dispatchMove_cases he h
  have he' : s'.executing = some e := hd.executing.trans he
  have hreg := hd.sameRegisters
  suffices hlater : PhaseMove s' t from hlater.of_earlier hreg.phase (hreg.host ▸ List.suffix_rfl)
  rcases hmove with ⟨hready, hhost⟩ | hcomp | ⟨a, ha, hmove⟩
  · obtain ⟨op, rest, hops, ⟨rfl, rfl⟩ | ⟨_, rfl⟩ | ⟨v, _, _, rfl⟩⟩ :=
      busyHostOnlyReadsStatusOrQueues.1 s' t (busy_of_executing he') hready hhost
    · exact .ends rfl (.reset (hops ▸ List.suffix_rfl) rfl)
    · exact .stays rfl (hops ▸ List.suffix_cons op rest)
    · exact .stays rfl (hops ▸ List.suffix_cons op rest)
  · exact (completeMove_next hcomp).phaseMove he' (hd.inv.trans hs)
  · exact (dispatchAgent_worked ha hmove).registers.phaseMove

/-! ## A command, and a step -/

/-- A command changes PHASE as listed: only the last move of its run can change it. -/
theorem exec_phaseMove {i : Instr} {s t : State} (hidle : s.executing = none) (hs : s.inv = true)
    (h : exec i s = .next t) : PhaseMove s t := by
  rcases exec_next h with rfl | ⟨u, hstart, _, hrun⟩
  · exact .stays rfl List.suffix_rfl
  · refine (runMoves_keeps (P := fun v => v.inv = true ∧ PhaseMove s v) (fun v e w he hv hmove => ?_)
      ⟨hstart.inv hidle hs, hstart.sameRegisters.phaseMove⟩ hrun).2
    obtain ⟨hinv, hsofar⟩ := hv
    refine ⟨dispatchMove_inv he hinv hmove, ?_⟩
    cases hsofar with
    | stays phase host => exact (dispatchMove_phaseMove he hinv hmove).of_earlier phase host
    | ends ended _ => simp [ended] at he

/-- The sequencer's move while no command executes changes PHASE as listed. -/
theorem sequencerMove_phaseMove {s t : State} (hidle : s.executing = none) (hs : s.inv = true)
    (h : sequencerMove s = .next t) : PhaseMove s t := by
  rcases sequencerMove_next h with rfl | ⟨c, rest, hq, rfl | ⟨i, hexec⟩⟩
  · exact .stays rfl List.suffix_rfl
  · exact .stays rfl List.suffix_rfl
  · exact (exec_phaseMove (s := { s with queue := rest }) hidle (inv_dequeue hq hs) hexec).of_earlier rfl
      List.suffix_rfl

/-- What a step does with PHASE: it moves as a run does, or the idle block's host takes it to 0. -/
theorem step_phase {s t : State} (hs : s.inv = true) (h : step s = .next t) :
    PhaseMove s t ∨ ∃ op, s.host = op :: t.host ∧ t.phase = .unprepared ∧ ClearsPhase s op := by
  rcases step_next h with ⟨e, he, hmove⟩ | ⟨_, rfl⟩ | ⟨_, s', hd, hready, hhost⟩ | ⟨hidle, s', hd, _, hseq⟩
  · exact .inl (dispatchMove_phaseMove he hs hmove)
  · exact .inl (SameRegisters.refl _).phaseMove
  · have hreg := hd.sameRegisters
    obtain ⟨op, hused, hphase⟩ := hostMove_phase (hd.hostReady.trans hready) hhost
    rw [hreg.host] at hused
    rcases hphase with hphase | ⟨hphase, hclears⟩
    · exact .inl (.stays (hphase.trans hreg.phase) (hused ▸ List.suffix_cons op t.host))
    · refine .inr ⟨op, hused, hphase, ?_⟩
      rwa [ClearsPhase, hd.busy] at hclears
  · have hreg := hd.sameRegisters
    exact .inl ((sequencerMove_phaseMove (hd.executing.trans hidle) (hd.inv.trans hs) hseq).of_earlier hreg.phase
      (hreg.host ▸ List.suffix_rfl))

/-- Settles O22: what a step does with PHASE, row by row of the table. -/
theorem phaseChangesOnlyAsListed : Obligations.PhaseChangesOnlyAsListed := by
  intro s t hs h hchange
  rcases step_phase hs h with hmove | ⟨op, hused, hphase, hclears⟩
  · cases hmove with
    | stays hphase _ => exact absurd hphase hchange
    | ends _ row =>
      cases row with
      | reset used phase =>
        obtain ⟨before, hused⟩ := used
        exact .inl ⟨phase, before, .reset, hused.symm, .inl rfl⟩
      | zeroed phase even odd flag cmdErr => exact .inr (.inl ⟨phase, even, odd, flag, cmdErr⟩)
      | histogrammed before phase => exact .inr (.inr (.inl ⟨before, phase⟩))
      | scanned before phase => exact .inr (.inr (.inr (.inl ⟨before, phase⟩)))
      | sorted before phase odd => exact .inr (.inr (.inr (.inr ⟨before, phase, odd⟩)))
  · exact .inl ⟨hphase, [], op, hused, hclears.imp_right fun ⟨hidle, hwrite⟩ => ⟨rfl, hidle, hwrite⟩⟩

end Sys2Proof.Machine

namespace Sys2Proof.Machine

/-! # A pass that starts with SORT_FAILED set

Nobody stores to SORT_FAILED in such a pass, so every poll reads it as it was at the start and aborts its lane
(60_exceptions.md R254). A lane above workgroup 0 therefore never resolves: its workgroup does not reach WRITE, its
partition words stay at their Aggregates, and the elements that the pass stores are those of the first tile. -/

/-! ## The stores of a tile, whatever their destinations -/

/-- After the stores of some elements a word is as before, or the element stored there last determines it, whichever of
its fields is the one stored. -/
theorem readWord_writeWords_placed (ps : List Placed) (j : Nat) :
    (∀ x ∈ ps, x.index ≠ j) ∨ ∃ x ∈ ps, ∀ (m : Memory) (f : Placed → Word), Memory.wf m = true →
      Memory.readWord (Memory.writeWords m (ps.map fun y => (y.index, f y))) j = f x := by
  induction ps with
  | nil => exact .inl nofun
  | cons x ps ih =>
    rcases ih with hmiss | ⟨y, hy, hlast⟩
    · by_cases hx : x.index = j
      · subst hx
        refine .inr ⟨x, List.mem_cons_self, fun m f hwf => ?_⟩
        have hother : ∀ z ∈ ps.map fun y => (y.index, f y), z.1 ≠ x.index := by simpa using hmiss
        exact (Memory.readWord_writeWords_other (Memory.wf_writeWord hwf _ _) hother).trans
          (Memory.readWord_writeWord_same hwf _ _)
      · exact .inl (by simpa [hx] using hmiss)
    · exact .inr ⟨y, List.mem_cons_of_mem _ hy, fun m f hwf => hlast _ f (Memory.wf_writeWord hwf _ _)⟩

/-- Position j of the destination of pass p holds in u what it held in s, or an element of s's first tile. -/
def KeptOrFirstTile (s u : State) (p j : Nat) : Prop :=
  (loadWord u (destKeys p) j = loadWord s (destKeys p) j ∧ loadWord u (destPay p) j = loadWord s (destPay p) j)
    ∨ ∃ o < s.cfg.tileS, loadWord u (destKeys p) j = loadWord s (sourceKeys p) o
      ∧ loadWord u (destPay p) j = loadWord s (sourcePay p) o

theorem KeptOrFirstTile.congr {s u v : State} {p j : Nat} (h : KeptOrFirstTile s u p j)
    (hmem : ∀ sp, sp ≠ .hist → memOf v sp = memOf u sp) : KeptOrFirstTile s v p j := by
  obtain ⟨hkeys, hpays⟩ := dest_ne_hist p
  rwa [KeptOrFirstTile, loadWord_congr (hmem _ hkeys), loadWord_congr (hmem _ hpays)]

/-- The stores of a first tile that is loaded put its elements only. -/
theorem KeptOrFirstTile.placeAll {s u : State} {p j : Nat} {run : ScatterRun} {g : ScatterGroup} {ps : List Placed}
    (h : KeptOrFirstTile s u p j) (hload : TileLoaded s p 0 g) (hps : ps.Perm (stored s.cfg run g))
    (hwf : ∀ sp, Memory.wf (memOf u sp) = true) : KeptOrFirstTile s (placeAll u p ps) p j := by
  simp only [KeptOrFirstTile, loadWord, memOf_placeAll_keys, memOf_placeAll_pay]
  rcases readWord_writeWords_placed ps j with hmiss | ⟨x, hx, hlast⟩
  · have hother : ∀ f : Placed → Word, ∀ z ∈ ps.map fun y => (y.index, f y), z.1 ≠ j := fun f => by simpa using hmiss
    rw [Memory.readWord_writeWords_other (hwf _) (hother _), Memory.readWord_writeWords_other (hwf _) (hother _)]
    exact h
  · obtain ⟨o, ho, _, rfl⟩ := mem_stored_iff.1 (hps.mem_iff.1 hx)
    have hkey := hload.key ho
    have hpay := hload.pay ho
    rw [Nat.zero_mul, Nat.zero_add] at hkey hpay
    exact .inr ⟨o, ho, (hlast _ _ (hwf _)).trans hkey, (hlast _ _ (hwf _)).trans hpay⟩

/-! ## The middle of the pass -/

/-- Workgroup w of a pass that aborts: what it has loaded, and above workgroup 0 no lane resolved. -/
structure AbortingTile (s : State) (p w : Nat) (g : ScatterGroup) : Prop where
  loaded : g.phase ≠ .load → TileLoaded s p w g
  unresolved : w ≠ 0 → ∀ l ∈ g.lanes, l.lstate ≠ .resolved

/-- What the moves of a pass that aborts keep: SORT_FAILED as it was and not stored to, no lane above workgroup 0
resolved, and nothing but elements of the first tile stored to the destination. -/
structure AbortShape (s : State) (p : Nat) (u : State) (run : ScatterRun) : Prop where
  flag : u.sortFailed = s.sortFailed
  older : run.failedOlder = []
  tiles : ∀ (w : Nat) (g : ScatterGroup), run.groups[w]? = some g → AbortingTile s p w g
  destination : ∀ j, KeptOrFirstTile s u p j

/-- u is a state in the middle of pass p of s, where s has SORT_FAILED set. -/
structure Aborting (s : State) (p : Nat) (u : State) (run : ScatterRun) : Prop where
  executing : u.executing = some (.scatter run)
  bounds : ScatterBounds s.cfg p s.paddedSize.toNat run
  registers : SameRegisters s u
  memory : StoresAt (passTarget s p) s u
  shape : ScatterShape u run
  aborts : AbortShape s p u run

theorem Aborting.reach {s u : State} {p : Nat} {run : ScatterRun} (h : Aborting s p u run) : PassReach s p u :=
  ⟨h.memory, .running run h.executing h.bounds h.registers⟩

theorem Aborting.wf {s u : State} {p : Nat} {run : ScatterRun} (h : Aborting s p u run) (hmem : s.memOk = true)
    (sp : Space) : Memory.wf (memOf u sp) = true := (h.memory sp).wf ((memOk_iff s).1 hmem sp).1

theorem Aborting.after_draws {s u v : State} {p : Nat} {run : ScatterRun} (h : Aborting s p u run)
    (hd : DrawsFrom u v) : Aborting s p v run where
  executing := hd.executing.trans h.executing
  bounds := h.bounds
  registers := h.registers.trans hd.sameRegisters
  memory := h.memory.trans (hd.storesAt _)
  shape := h.shape.after_draws hd
  aborts := ⟨hd.sortFailed.trans h.aborts.flag, h.aborts.older, h.aborts.tiles,
    fun j => (h.aborts.destination j).congr fun sp _ => hd.memOf sp⟩

theorem startScatter_aborting (p : Nat) (s : State) : Aborting s p (startScatter p s)
    { pass := p, size := s.paddedSize.toNat, groups := startGroups s, failedOlder := [] } where
  executing := rfl
  bounds := startScatter_bounds p s
  registers := ⟨⟨rfl, rfl, rfl, rfl, rfl, rfl⟩, rfl, rfl, rfl, rfl⟩
  memory := .of_memOf_eq _ fun sp => by cases sp <;> rfl
  shape := by
    obtain ⟨run, hrun, _, _, _, _, _, _, hfits, hwords⟩ := startedScatterHasItsShape s p
    obtain rfl := Executing.scatter.inj (Option.some.inj ((startScatter_executing p s).symm.trans hrun))
    exact scatterShape_iff.2 ⟨hfits, hwords⟩
  aborts := by
    refine ⟨rfl, rfl, fun w g hg => ?_, fun j => .inl ⟨?_, ?_⟩⟩
    · obtain ⟨_, rfl⟩ := startGroups_getElem? hg
      refine ⟨fun hph => absurd rfl hph, fun _ l hl => ?_⟩
      rw [scatterGroupStart_lane hl]
      nofun
    · exact congrFun (loadWord_startScatter p s _) j
    · exact congrFun (loadWord_startScatter p s _) j

/-- In WRITE and DONE every lane is resolved (43_scatter.md R188). -/
theorem GroupShape.resolved {s : State} {p w d : Nat} {g : ScatterGroup} {l : Lane} (h : GroupShape s p w g)
    (hph : g.phase = .write ∨ g.phase = .done) (hl : g.lanes[d]? = some l) : l.lstate = .resolved := by
  have hfits := h.fits d l hl
  rcases hph with hph | hph <;> simp only [laneFits, hph, Bool.and_eq_true, beq_iff_eq] at hfits
  · exact hfits.1
  · exact hfits.1

/-- Only the first workgroup of a pass that aborts gets to WRITE and DONE. -/
theorem Aborting.first {s u : State} {p w : Nat} {run : ScatterRun} {g : ScatterGroup} (h : Aborting s p u run)
    (hg : run.groups[w]? = some g) (hph : g.phase = .write ∨ g.phase = .done) : w = 0 := by
  have hshape := h.shape w g hg
  have hl : g.lanes[0]? = some (g.lanes[0]'(by simp [hshape.lanes])) := List.getElem?_eq_getElem _
  by_contra hw
  exact (h.aborts.tiles w g hg).unresolved hw _ (List.mem_of_getElem? hl) (hshape.resolved hph hl)

/-! ## Its moves -/

/-- The scatter that t executes, if it executes one, is as the moves of a pass that aborts keep it. -/
def Aborts (s : State) (p : Nat) (t : State) : Prop :=
  ∀ run, t.executing = some (.scatter run) → AbortShape s p t run

section Moves

variable {s u v t : State} {p w d : Nat} {run : ScatterRun} {g g' : ScatterGroup} {l l' : Lane}

/-- A workgroup replaced by one that aborts. -/
theorem AbortShape.setGroup (h : AbortShape s p u run) (hflag : v.sortFailed = u.sortFailed)
    (hdest : ∀ j, KeptOrFirstTile s v p j) (hg' : AbortingTile s p w g') :
    Aborts s p (setScatter v (run.setGroup w g')) := by
  intro run' hrun
  obtain rfl := Executing.scatter.inj (Option.some.inj hrun)
  refine ⟨hflag.trans h.flag, h.older, fun x g₁ hx => ?_,
    fun j => (hdest j).congr fun sp _ => memOf_setScatter v _ sp⟩
  simp only [ScatterRun.setGroup, List.getElem?_set] at hx
  split at hx
  · next heq =>
    subst heq
    obtain ⟨_, rfl⟩ : _ ∧ g' = g₁ := by simpa using hx
    exact hg'
  · exact h.tiles x g₁ hx

variable (h : Aborting s p u run) (hg : run.groups[w]? = some g)
include h hg

/-- A move of a lane that stores to HIST at most, and does not resolve the lane above workgroup 0. -/
theorem Aborting.laneStep (hstep : LaneStep d l' g g') (harrays : g'.arrays = g.arrays)
    (hflag : v.sortFailed = u.sortFailed) (hmem : ∀ sp, sp ≠ .hist → memOf v sp = memOf u sp)
    (hres : w ≠ 0 → l'.lstate ≠ .resolved) : Aborts s p (setScatter v (run.setGroup w g')) := by
  obtain ⟨hloaded, hunresolved⟩ := h.aborts.tiles w g hg
  refine h.aborts.setGroup hflag (fun j => (h.aborts.destination j).congr hmem)
    ⟨fun hph => (hloaded (hstep.phase ▸ hph)).congr harrays, fun hw m hm => ?_⟩
  rw [hstep.lanes] at hm
  rcases List.mem_or_eq_of_mem_set hm with hm | rfl
  · exact hunresolved hw m hm
  · exact hres hw

/-- PUBLISH resolves lanes of workgroup 0 only (43_scatter.md R178, R179). -/
theorem publishMove_aborts (hl : g.lanes[d]? = some l) (hph : g.phase = .publish) (hpub : l.publishing = true)
    (hmove : publishMove run w d g l u = .next t) : Aborts s p t := by
  unfold publishMove at hmove
  rcases (Lane.publishing_iff l).1 hpub with hls | hls <;> simp only [hls] at hmove
  · split at hmove
    · obtain ⟨_, hmove⟩ := guardSpace_next.1 hmove
      obtain rfl := Host.Outcome.next.inj hmove
      exact h.laneStep hg (laneStep_setExcl g rfl _) rfl rfl (fun _ _ => rfl) fun _ => nofun
    · obtain ⟨_, hmove⟩ := guardSpace_next.1 hmove
      obtain rfl := Host.Outcome.next.inj hmove
      exact h.laneStep hg (laneStep_setLane g rfl) rfl (by simp [publishWord])
        (fun _ => memOf_publishWord u w d _) fun _ => nofun
  · have hfits := (h.shape w g hg).fits d l hl
    obtain ⟨hw, _⟩ : w = 0 ∧ l.older = [] := by simpa [laneFits, hph, hls] using hfits
    obtain ⟨_, hmove⟩ := guardSpace_next.1 hmove
    obtain rfl := Host.Outcome.next.inj hmove
    exact h.laneStep hg (laneStep_setLane g rfl) rfl (by simp [publishWord])
      (fun _ => memOf_publishWord u w d _) fun hne => absurd hw hne

/-- A poll reads SORT_FAILED as it was at the start, set, and aborts its lane (R183, R184). -/
theorem poll_aborts (hset : s.sortFailed ≠ 0) (hmove : poll run w d g l u = .next t) : Aborts s p t := by
  have hread := List.mem_of_getElem? (loadCoherent_value u.sortFailed run.failedOlder l.seenFailed u)
  rw [h.aborts.older, h.aborts.flag] at hread
  have hpoll : poll run w d g l u = abortLane run w d g _ _ :=
    if_pos (by rw [h.aborts.older, h.aborts.flag, List.mem_singleton.1 hread]; exact hset)
  rw [hpoll] at hmove
  obtain rfl := Host.Outcome.next.inj hmove
  exact (h.after_draws (loadCoherent_draws _ _ _ u)).laneStep hg (laneStep_lost g rfl) rfl rfl (fun _ _ => rfl)
    fun _ => nofun

theorem laneMove_aborts (hset : s.sortFailed ≠ 0) (hl : g.lanes[d]? = some l) (hact : l.active g.phase)
    (hmove : laneMove run w d g l u = .next t) : Aborts s p t := by
  rcases hact with ⟨hph, hpub⟩ | ⟨hph, _⟩ <;> simp only [laneMove, hph] at hmove
  · exact publishMove_aborts h hg hl hph hpub hmove
  · exact poll_aborts h hg hset hmove

/-- LOAD fills the arrays from the source, which the pass does not write (R174). -/
theorem scatterLoad_aborts (hmove : scatterLoad run w g u = .next t) : Aborts s p t := by
  obtain ⟨_, hmove⟩ := guardSpace_next.1 hmove
  obtain ⟨_, hmove⟩ := guardSpace_next.1 hmove
  obtain rfl := Host.Outcome.next.inj hmove
  obtain ⟨hkeys, hpays⟩ := h.reach.source
  have hkeys : loadWord u (sourceKeys p) = sourceKey s p := funext (loadWord_congr hkeys)
  have hpays : loadWord u (sourcePay p) = sourcePayload s p := funext (loadWord_congr hpays)
  refine h.aborts.setGroup rfl h.aborts.destination ⟨fun _ => ?_, (h.aborts.tiles w g hg).unresolved⟩
  rw [h.bounds.pass, hkeys, hpays, h.registers.cfg]
  exact ⟨rfl, rfl, rfl, rfl, rfl⟩

/-- The barrier after PUBLISH: a lane that starts to walk is not resolved (R178). -/
theorem publishBarrier_aborts (hph : g.phase = .publish) (hmove : publishBarrier run w g u = .next t) :
    Aborts s p t := by
  obtain rfl := Host.Outcome.next.inj hmove
  have hloaded := (h.aborts.tiles w g hg).loaded (by simp [hph])
  refine h.aborts.setGroup rfl h.aborts.destination ?_
  split
  · next hw => exact ⟨fun _ => hloaded.congr rfl, fun hne => absurd hw hne⟩
  · refine ⟨fun _ => hloaded.congr rfl, fun _ m hm => ?_⟩
    obtain ⟨l, _, rfl⟩ := List.mem_map.1 hm
    nofun

theorem lookbackBarrier_aborts (hph : g.phase = .lookback) (hmove : lookbackBarrier run w g u = .next t) :
    Aborts s p t := by
  obtain rfl := Host.Outcome.next.inj hmove
  obtain ⟨hloaded, hunresolved⟩ := h.aborts.tiles w g hg
  exact h.aborts.setGroup rfl h.aborts.destination ⟨fun _ => (hloaded (by simp [hph])).congr rfl, hunresolved⟩

/-- Only the first workgroup writes, and what it writes are its tile's elements (R190). -/
theorem scatterWrite_aborts (hmem : s.memOk = true) (hph : g.phase = .write)
    (hmove : scatterWrite run w g u = .next t) : Aborts s p t := by
  obtain rfl := h.first hg (.inl hph)
  obtain ⟨ps, u', hd, hps, rfl⟩ := scatterWrite_next hmove
  have h' := h.after_draws hd
  obtain ⟨hloaded, hunresolved⟩ := h.aborts.tiles 0 g hg
  have hloaded := hloaded (by simp [hph])
  rw [h.registers.cfg] at hps
  rw [h.bounds.pass]
  exact h'.aborts.setGroup (by simp [placeAll])
    (fun j => (h'.aborts.destination j).placeAll hloaded hps (h'.wf hmem))
    ⟨fun _ => hloaded.congr rfl, hunresolved⟩

theorem scatterGroupMove_aborts (hmem : s.memOk = true) (hready : g.ready)
    (hmove : scatterGroupMove run w g u = .next t) : Aborts s p t := by
  rcases hready with hph | hph | ⟨hph, _⟩ | ⟨hph, _⟩ <;> simp only [scatterGroupMove, hph] at hmove
  · exact scatterLoad_aborts h hg hmove
  · exact scatterWrite_aborts h hg hmem hph hmove
  · exact publishBarrier_aborts h hg hph hmove
  · exact lookbackBarrier_aborts h hg hph hmove

end Moves

/-- Every move of an agent of the scatter leads to a state in the middle of the pass again. -/
theorem Aborting.agentMove {s u t : State} {p : Nat} {run : ScatterRun} {a : Agent} (h : Aborting s p u run)
    (hmem : s.memOk = true) (hset : s.sortFailed ≠ 0) (ha : a ∈ dispatchAgents (.scatter run))
    (hmove : agentMove (.scatter run) a u = .next t) : ∃ run', Aborting s p t run' := by
  have haborts : Aborts s p t := by
    obtain ⟨w, g, hg, ha'⟩ := mem_dispatchAgents_scatter_iff.1 ha
    rcases mem_scatterGroupAgents ha' with ⟨rfl, _, _⟩ | ⟨d, l, rfl, hl, hact⟩
    · simp only [Machine.agentMove, groupMove, hg] at hmove
      exact scatterGroupMove_aborts h hg hmem (group_mem_scatterGroupAgents.1 ha').2 hmove
    · simp only [Machine.agentMove, digitLaneMove, hg, hl] at hmove
      exact laneMove_aborts h hg hset hl hact hmove
  obtain ⟨w, g, hg, hstep⟩ := scatterAgent_step ha hmove
  obtain ⟨g', older, ht, hgroup⟩ := hstep.dispatch
  exact ⟨_, ht, h.bounds.setGroup hg hgroup, h.registers.trans hstep.registers,
    h.memory.trans (hstep.memory.mono fun _ _ hi => scatterTarget_passTarget h.bounds hg hi.2),
    scatterAgent_shaped h.shape (h.wf hmem .hist) ha hmove _ ht, haborts _ ht⟩

/-! ## The pass as a whole -/

/-- A state that pass p of s can reach: in the middle, or completed once every workgroup is terminal. -/
inductive AbortReach (s : State) (p : Nat) : State → Prop where
  | running (u : State) (run : ScatterRun) (middle : Aborting s p u run) : AbortReach s p u
  | ended (u : State) (run : ScatterRun) (last : Aborting s p u run)
      (terminal : ∀ g ∈ run.groups, g.phase = .done ∨ g.phase = .failed) : AbortReach s p (passDone p u)

/-- The pass always has a move, which leads to a state it can reach. -/
theorem AbortReach.dispatchMove {s u : State} {p : Nat} {e : Executing} (h : AbortReach s p u) (hp : p < 4)
    (hcap : s.paddedSize.toNat ≤ s.cfg.cap) (hmem : s.memOk = true) (hset : s.sortFailed ≠ 0) (hhost : s.host = [])
    (he : u.executing = some e) : ∃ t, Machine.dispatchMove e u = .next t ∧ AbortReach s p t := by
  cases h with
  | ended u run last => simp [passDone_executing] at he
  | running _ run middle =>
    obtain rfl := Option.some.inj (middle.executing.symm.trans he)
    refine dispatchMove_leadsTo he (middle.registers.host.trans hhost) (fun hnone => ?_) fun a ha u' hd => ?_
    · refine ⟨_, rfl, ?_⟩
      rw [middle.bounds.pass]
      exact .ended _ _ middle (dispatchAgents_scatter_eq_nil.1 hnone)
    · have middle' := middle.after_draws hd
      have hcfg := middle'.registers.cfg
      obtain ⟨t, hmove⟩ := scatterAgent_total (s := u') (hcfg ▸ middle.bounds) hp (hcfg ▸ hcap) ha
      obtain ⟨_, ht⟩ := middle'.agentMove hmem hset ha hmove
      exact ⟨t, hmove, .running _ _ ht⟩

/-- A pass that starts with SORT_FAILED set runs until every workgroup is terminal, and completes (R200, R254). -/
theorem abortingPass_ends {s : State} {p : Nat} (hp : p < 4) (hcap : s.paddedSize.toNat ≤ s.cfg.cap)
    (hmem : s.memOk = true) (hset : s.sortFailed ≠ 0) (hhost : s.host = []) :
    ∃ u run, runToEnd (startScatter p s) = .next (passDone p u) ∧ Aborting s p u run
      ∧ ∀ g ∈ run.groups, g.phase = .done ∨ g.phase = .failed := by
  obtain ⟨t, hrun, ht⟩ := runMoves_total (P := AbortReach s p)
    (fun _ _ hu he => hu.dispatchMove hp hcap hmem hset hhost he)
    (remainingMoves (startScatter p s)) (.running _ _ (startScatter_aborting p s))
  cases ht with
  | running _ _ middle =>
    have hend := runToEnd_ends hrun
    simp [middle.executing] at hend
  | ended _ _ last terminal => exact ⟨_, _, hrun, last, terminal⟩

/-- A lost lane's partition word is its Aggregate (R184). -/
theorem GroupShape.aggregate_of_failed {s : State} {p w d : Nat} {g : ScatterGroup} {l : Lane}
    (h : GroupShape s p w g) (hph : g.phase = .failed) (hl : g.lanes[d]? = some l) (hres : l.lstate ≠ .resolved) :
    loadWord s .hist (pidx w d) = psw (aggTag p) (arrayAt g.counts d) := by
  have hfits := h.fits d l hl
  simp only [laneFits, hph, Bool.and_eq_true] at hfits
  have hwait : l.lstate ≠ .waiting := fun hls => by simp [Lane.terminal, hls] at hfits
  have hbased : l.lstate ≠ .based := fun hls => by simp [Lane.terminal, hls] at hfits
  obtain ⟨_, hword, _⟩ := (laneWordFits_aggregate hwait hbased hres).1 (h.words d l hl)
  exact hword

/-- At the end every partition word above workgroup 0 is its tile's Aggregate (R178, R254). -/
theorem Aborting.word_of_terminal {s u : State} {p w d : Nat} {run : ScatterRun} (h : Aborting s p u run)
    (hterm : ∀ g ∈ run.groups, g.phase = .done ∨ g.phase = .failed)
    (hw : w < scatterGrid s.cfg s.paddedSize.toNat) (hpos : 0 < w) (hd : d < 256) :
    loadWord u .hist (pidx w d) = psw (aggTag p) (BitVec.ofNat 32 (tileTotal s p w d)) := by
  have hlt : w < run.groups.length := h.bounds.groups.symm ▸ hw
  have hg : run.groups[w]? = some run.groups[w] := List.getElem?_eq_getElem hlt
  have hph : run.groups[w].phase = .failed := (hterm _ (List.getElem_mem hlt)).resolve_left fun hdone =>
    hpos.ne' (h.first hg (.inr hdone))
  have hshape := h.shape w _ hg
  have hl : run.groups[w].lanes[d]? = some (run.groups[w].lanes[d]'(hshape.lanes.symm ▸ hd)) :=
    List.getElem?_eq_getElem _
  obtain ⟨hloaded, hunresolved⟩ := h.aborts.tiles w _ hg
  rw [hshape.aggregate_of_failed hph hl (hunresolved hpos.ne' _ (List.mem_of_getElem? hl)), h.bounds.pass,
    (hloaded (by simp [hph])).count hd]

/-- Settles O50: the pass ends in a state of Aborting with every workgroup terminal, and its completion changes no
buffer and not SORT_FAILED. -/
theorem failedSortStaysFailed : Obligations.FailedSortStaysFailed := by
  intro s i p haccepted _ hhost hidle hinv hlegal hset
  obtain ⟨hexec, hp, _, _⟩ := exec_acceptedScatter haccepted hidle hinv hlegal
  obtain ⟨hmem, _, _, _⟩ := (inv_iff s).1 hinv
  obtain ⟨u, run, hrun, hlast, hterm⟩ := abortingPass_ends hp (sizesLegal_le_cap hlegal) hmem hset hhost
  obtain ⟨_, _, hflag⟩ := passDone_registers p u
  refine ⟨_, hexec.trans hrun, hflag.trans hlast.aborts.flag, fun w hw hpos d hd => ?_, fun j => ?_⟩
  · exact (loadWord_passDone _ _ _ _).trans (hlast.word_of_terminal hterm hw hpos hd)
  · exact (hlast.aborts.destination j).congr fun sp _ => memOf_passDone p u sp

/-! # Illegal sizes -/

theorem sizesLegal_iff (s : State) : sizesLegal s = true ↔ s.numKeys.toNat ≤ s.paddedSize.toNat
    ∧ s.paddedSize.toNat ≤ s.cfg.cap ∧ s.paddedSize.toNat % s.cfg.tileS = 0 ∧ spacesDisjoint s.cfg = true := by
  simp only [sizesLegal, Bool.and_eq_true, decide_eq_true_eq, beq_iff_eq, BitVec.le_def, and_assoc]

/-- An accepted command is refused on illegal sizes (60_exceptions.md R256). -/
theorem runCommand_refused {accepted : Bool} {s : State} (hlegal : sizesLegal s = false) (start : State → State)
    (hacc : accepted = true) : runCommand accepted start s = .refused .capacity := by
  simp [runCommand, hacc, hlegal]

/-- Settles O21: each of the four conditions makes the sizes illegal, and each command is the sequencer's runCommand. -/
theorem illegalSizesAreRefused : Obligations.IllegalSizesAreRefused := by
  intro s hbroken
  have hlegal : sizesLegal s = false := by
    rw [← Bool.not_eq_true, sizesLegal_iff]
    rintro ⟨hkeys, hcap, hwhole, hdisjoint⟩
    rcases hbroken with hbroken | hbroken | hbroken | hbroken
    · omega
    · omega
    · exact hbroken hwhole
    · simp [hdisjoint] at hbroken
  exact ⟨runCommand_refused hlegal _ rfl, runCommand_refused hlegal _, runCommand_refused hlegal _,
    runCommand_refused hlegal _, runCommand_refused hlegal _⟩

end Sys2Proof.Machine

namespace Sys2Proof.Machine

/-! # No step changes the parameters -/

/-- A command leaves the parameters alone, whatever the host does during its run (10_state.md R46). -/
theorem exec_cfg {i : Instr} {s t : State} (h : exec i s = .next t) : t.cfg = s.cfg := by
  rcases exec_next h with rfl | ⟨s', hstart, _, hrun⟩
  · rfl
  · exact runMoves_keeps (P := fun u => u.cfg = s.cfg) (fun _ _ _ he hu hmove => (dispatchMove_cfg he hmove).trans hu)
      hstart.sameRegisters.cfg hrun

theorem sequencerMove_cfg {s t : State} (h : sequencerMove s = .next t) : t.cfg = s.cfg := by
  rcases sequencerMove_next h with rfl | ⟨c, rest, _, rfl | ⟨i, hexec⟩⟩
  · rfl
  · rfl
  · exact exec_cfg (s := { s with queue := rest }) hexec

/-- Settles O27: neither the executing command, nor the host, nor the sequencer moves the parameters, and draws leave
them alone. -/
theorem parametersNeverChange : Obligations.ParametersNeverChange := by
  intro s t h
  rcases step_next h with ⟨e, he, hmove⟩ | ⟨_, rfl⟩ | ⟨_, s', hd, hr, hhost⟩ | ⟨_, s', hd, _, hseq⟩
  · exact dispatchMove_cfg he hmove
  · rfl
  · obtain ⟨op, rest, _, heff⟩ := hostMove_next (hd.hostReady.trans hr) hhost
    exact heff.cfg.trans hd.sameRegisters.cfg
  · exact (sequencerMove_cfg hseq).trans hd.sameRegisters.cfg

/-! # The reset event -/

/-- STATUS reads 0 after the reset event (70_reset_and_hazards.md R280). -/
theorem statusWord_resetEvent (s : State) : statusWord (resetEvent s) = 0 := by
  have hfields : statusWord (resetEvent s) = statusWord State.reset := rfl
  exact hfields.trans (by decide)

/-- Settles O12: the host's move is the reset event of the state without it in the host's list. -/
theorem resetEventAbandonsTheCommand : Obligations.ResetEventAbandonsTheCommand := by
  intro s rest hhost
  have hmove : hostMove s = .next (resetEvent { s with host := rest }) := hostMove_cons hhost
  exact ⟨_, hmove, rfl, rfl, statusWord_resetEvent _, rfl, rfl, by simp [hostReady, hhost]⟩

/-! # The host's duties -/

/-- A result that is a refusal where p holds, and a next state otherwise. -/
def RefusedExactlyWhen (p : Prop) (r : Result) : Prop :=
  (p → ∃ x, r = .refused x) ∧ (¬ p → ∃ t, r = .next t)

theorem refusedExactlyWhen_of_refused {p : Prop} {r : Result} {x : Refusal} (hp : p) (hr : r = .refused x) :
    RefusedExactlyWhen p r := ⟨fun _ => ⟨x, hr⟩, fun hn => absurd hp hn⟩

theorem refusedExactlyWhen_of_next {p : Prop} (hp : ¬ p) (t : State) : RefusedExactlyWhen p (.next t) :=
  ⟨fun h => absurd h hp, fun _ => ⟨t, rfl⟩⟩

/-- A check of one duty in front of the others. -/
theorem RefusedExactlyWhen.check {p q : Prop} [Decidable p] {k : Result} (h : RefusedExactlyWhen q k) (x : Refusal) :
    RefusedExactlyWhen (p ∨ q) (if p then .refused x else k) := by
  by_cases hp : p
  · rw [if_pos hp]
    exact refusedExactlyWhen_of_refused (.inl hp) rfl
  · rw [if_neg hp]
    simpa only [hp, false_or] using h

/-- A check of the one duty there is. -/
theorem refusedExactlyWhen_check (p : Prop) [Decidable p] (x : Refusal) (t : State) :
    RefusedExactlyWhen p (if p then .refused x else .next t) := by
  simpa using (refusedExactlyWhen_of_next not_false t).check (p := p) x

/-! ## Registers -/

/-- An access of the register block is no aligned word, or addresses a reserved offset, or a register. -/
theorem registerAccess_cases (offset size : Nat) : oneAlignedWord offset size = false
    ∨ (oneAlignedWord offset size = true ∧ regAt offset = none) ∨ ∃ r : Reg, offset = r.offset ∧ size = 4 := by
  cases hword : oneAlignedWord offset size with
  | false => exact .inl rfl
  | true =>
    cases hreg : regAt offset with
    | none => exact .inr (.inl ⟨rfl, rfl⟩)
    | some r => exact .inr (.inr ⟨r, offset_of_regAt hreg, oneAlignedWord_size hword⟩)

/-- Of the registers the sizes are written only while idle, CMD only while the queue has room, and the others never
(10_state.md R21, R22, R30, R33). -/
theorem writeReg_duty (s : State) (r : Reg) (v : Word) :
    RefusedExactlyWhen (dutyBroken s (opWrite r v) = true) (writeReg s r v) := by
  cases r with
  | numKeys =>
    have hduty : dutyBroken s (opWrite .numKeys v) = busy s := by
      simp [dutyBroken, opWrite, oneAlignedWord, regAt, Reg.offset]
    exact hduty ▸ refusedExactlyWhen_check _ _ _
  | paddedSize =>
    have hduty : dutyBroken s (opWrite .paddedSize v) = busy s := by
      simp [dutyBroken, opWrite, oneAlignedWord, regAt, Reg.offset]
    exact hduty ▸ refusedExactlyWhen_check _ _ _
  | cmd =>
    have hduty : dutyBroken s (opWrite .cmd v) = true ↔ s.cfg.queueDepth ≤ s.queue.length := by
      simp [dutyBroken, opWrite, oneAlignedWord, regAt, Reg.offset]
    rw [hduty]
    exact refusedExactlyWhen_check _ _ _
  | _ => exact refusedExactlyWhen_of_refused (by simp [dutyBroken, opWrite, Reg.offset]) rfl

/-- While BUSY STATUS is the only register with a READ (30_encoding.md R106). -/
theorem dutyBroken_opRead (s : State) (r : Reg) : dutyBroken s (opRead r) = (busy s && r != .status) := by
  simp only [dutyBroken, opRead, oneAlignedWord_offset, regAt_offset]
  cases r <;> simp [Reg.offset]

theorem hostWrite_registers_duty (s : State) (offset size : Nat) (v : Word) :
    RefusedExactlyWhen (dutyBroken s (.write .registers offset size v) = true)
      (hostWrite s .registers offset size v) := by
  rcases registerAccess_cases offset size with hword | ⟨hword, hreg⟩ | ⟨r, rfl, rfl⟩
  · exact refusedExactlyWhen_of_refused (x := .notOneAlignedWord) (by simp [dutyBroken, hword])
      (by simp [hostWrite, hword])
  · exact refusedExactlyWhen_of_refused (x := .reservedOffset) (by simp [dutyBroken, hreg])
      (by simp [hostWrite, hword, hreg])
  · exact hostWrite_register s r v ▸ writeReg_duty s r v

theorem hostRead_registers_duty (s : State) (offset size : Nat) :
    RefusedExactlyWhen (dutyBroken s (.read .registers offset size) = true) (hostRead s .registers offset size) := by
  rcases registerAccess_cases offset size with hword | ⟨hword, hreg⟩ | ⟨r, rfl, rfl⟩
  · exact refusedExactlyWhen_of_refused (x := .notOneAlignedWord) (by simp [dutyBroken, hword])
      (by simp [hostRead, hword])
  · exact refusedExactlyWhen_of_refused (x := .reservedOffset) (by simp [dutyBroken, hreg])
      (by simp [hostRead, hword, hreg])
  · rw [hostRead_register]
    exact dutyBroken_opRead s r ▸ refusedExactlyWhen_check _ _ _

/-! ## Spaces -/

/-- The duties of an access to a space: one aligned word, inside the space, while idle (20_memory.md R61, R62). -/
theorem hostWrite_space_duty (s : State) (sp : Space) (offset size : Nat) (v : Word) :
    RefusedExactlyWhen (dutyBroken s (.write (.space sp) offset size v) = true)
      (hostWrite s (.space sp) offset size v) := by
  simp only [dutyBroken, Bool.or_eq_true, decide_eq_true_eq, or_assoc]
  exact ((refusedExactlyWhen_check _ _ _).check _).check _

theorem hostRead_space_duty (s : State) (sp : Space) (offset size : Nat) :
    RefusedExactlyWhen (dutyBroken s (.read (.space sp) offset size) = true) (hostRead s (.space sp) offset size) := by
  simp only [dutyBroken, Bool.or_eq_true, decide_eq_true_eq, or_assoc]
  exact ((refusedExactlyWhen_check _ _ _).check _).check _

/-! ## Every operation -/

/-- A host operation is refused exactly where it breaks a duty; WAIT and the reset event have none. -/
theorem hostOp_duty (s : State) (op : HostOp) : RefusedExactlyWhen (dutyBroken s op = true) (hostOp s op) := by
  cases op with
  | write tgt offset size v =>
    cases tgt with
    | registers => exact hostWrite_registers_duty s offset size v
    | space sp => exact hostWrite_space_duty s sp offset size v
  | read tgt offset size =>
    cases tgt with
    | registers => exact hostRead_registers_duty s offset size
    | space sp => exact hostRead_space_duty s sp offset size
  | wait => exact refusedExactlyWhen_of_next Bool.false_ne_true _
  | reset => exact refusedExactlyWhen_of_next Bool.false_ne_true _

/-- Settles O16: hostOp_duty both ways, and CMD is a register that reads 0. -/
theorem hostDutiesAreWhatIsRefused : Obligations.HostDutiesAreWhatIsRefused := by
  refine ⟨fun s op hbroken => ?_, fun s op hkept => ?_, fun s hidle => hostRead_register_idle hidle .cmd⟩
  · exact (hostOp_duty s op).1 hbroken
  · exact (hostOp_duty s op).2 (Bool.eq_false_iff.1 hkept)

end Sys2Proof.Machine
